-- ==== Sys2Proof/Word.lean ====
section
/-! DEFINITION. The word types of the core and the index types of its register files (00_scope.md R9, R13). -/

namespace Sys2Proof

/-- `u8`: one memory byte, one V register, one timer (00_scope.md R13). -/
abbrev Byte := BitVec 8

/-- `u16`: I, PC, a stack slot, an instruction word (00_scope.md R13). -/
abbrev Word := BitVec 16

/-- `u64`: the generator's state (00_scope.md R13). -/
abbrev Seed := BitVec 64

/-- The twelve address bits `nnn` of an instruction word (30_encoding.md R301). -/
abbrev Addr12 := BitVec 12

/-- The number of a general register, 0 to 15 (00_scope.md R9 NUM_V). -/
abbrev VReg := Fin 16

/-- One physical row of the framebuffer, 128 columns, column 0 the most significant bit
(45_framebuffer_draw.md R900, R906). -/
abbrev Row := BitVec 128

end Sys2Proof
end

