-- ==== Sys2Proof/Syntax.lean ====
section
/-! DEFINITION. The instruction set: one constructor per row of spec/opcode_table.json (30_encoding.md R304). -/

namespace Sys2Proof

/-- The 45 instructions of 30_encoding.md R304, with the fields of R301 each one uses. `n` is a count or a scroll
distance 0..15. -/
inductive Instr where
  /-- 00E0 CLS (R500) -/
  | cls
  /-- 00Cn SCD n (R501) -/
  | scd (n : Fin 16)
  /-- 00FB SCR (R502) -/
  | scr
  /-- 00FC SCL (R503) -/
  | scl
  /-- 00EE RET (R504) -/
  | ret
  /-- 00FD EXIT (R505) -/
  | exitProgram
  /-- 00FE LOW (R506) -/
  | low
  /-- 00FF HIGH (R507) -/
  | high
  /-- 0nnn SYS nnn, every other group-0 word (R508) -/
  | sys (nnn : Addr12)
  /-- 1nnn JP nnn (R600) -/
  | jp (nnn : Addr12)
  /-- 2nnn CALL nnn (R601) -/
  | call (nnn : Addr12)
  /-- 3xkk SE Vx, kk (R602) -/
  | seImm (x : VReg) (kk : Byte)
  /-- 4xkk SNE Vx, kk (R603) -/
  | sneImm (x : VReg) (kk : Byte)
  /-- 5xy0 SE Vx, Vy (R604) -/
  | seReg (x y : VReg)
  /-- 6xkk LD Vx, kk (R702) -/
  | ldImm (x : VReg) (kk : Byte)
  /-- 7xkk ADD Vx, kk (R703) -/
  | addImm (x : VReg) (kk : Byte)
  /-- 8xy0 LD Vx, Vy (R704) -/
  | ldReg (x y : VReg)
  /-- 8xy1 OR Vx, Vy (R705) -/
  | orReg (x y : VReg)
  /-- 8xy2 AND Vx, Vy (R706) -/
  | andReg (x y : VReg)
  /-- 8xy3 XOR Vx, Vy (R707) -/
  | xorReg (x y : VReg)
  /-- 8xy4 ADD Vx, Vy (R708) -/
  | addReg (x y : VReg)
  /-- 8xy5 SUB Vx, Vy (R709) -/
  | subReg (x y : VReg)
  /-- 8xy6 SHR Vx, Vy (R710) -/
  | shrReg (x y : VReg)
  /-- 8xy7 SUBN Vx, Vy (R711) -/
  | subnReg (x y : VReg)
  /-- 8xyE SHL Vx, Vy (R712) -/
  | shlReg (x y : VReg)
  /-- 9xy0 SNE Vx, Vy (R605) -/
  | sneReg (x y : VReg)
  /-- Annn LD I, nnn (R800) -/
  | ldI (nnn : Addr12)
  /-- Bnnn JP V0, nnn; the register is chosen by the platform (R606) -/
  | jpV0 (nnn : Addr12)
  /-- Cxkk RND Vx, kk (R1102) -/
  | rnd (x : VReg) (kk : Byte)
  /-- Dxy0 DRW Vx, Vy, 0 (R911, R912) -/
  | drwZero (x y : VReg)
  /-- Dxyn DRW Vx, Vy, n with n ≥ 1 (R910) -/
  | drw (x y : VReg) (n : Fin 16)
  /-- Ex9E SKP Vx (R1001) -/
  | skp (x : VReg)
  /-- ExA1 SKNP Vx (R1002) -/
  | sknp (x : VReg)
  /-- Fx07 LD Vx, DT (R1003) -/
  | ldVxDt (x : VReg)
  /-- Fx0A LD Vx, K (R1006) -/
  | ldVxKey (x : VReg)
  /-- Fx15 LD DT, Vx (R1004) -/
  | ldDtVx (x : VReg)
  /-- Fx18 LD ST, Vx (R1005) -/
  | ldStVx (x : VReg)
  /-- Fx1E ADD I, Vx (R801) -/
  | addI (x : VReg)
  /-- Fx29 LD F, Vx (R802) -/
  | ldFont (x : VReg)
  /-- Fx30 LD HF, Vx (R803) -/
  | ldHiFont (x : VReg)
  /-- Fx33 LD B, Vx (R804) -/
  | ldBcd (x : VReg)
  /-- Fx55 LD [I], Vx (R806) -/
  | storeRegs (x : VReg)
  /-- Fx65 LD Vx, [I] (R807) -/
  | loadRegs (x : VReg)
  /-- Fx75 LD R, Vx (R808) -/
  | saveHp48 (x : VReg)
  /-- Fx85 LD Vx, R (R809) -/
  | loadHp48 (x : VReg)
deriving DecidableEq, Repr

end Sys2Proof
end

