-- ==== Sys2Proof/WellFormed.lean ====
section
/-! DEFINITION. Which terms of `Instr` are instructions of the table: the two rows that yield to another row
(30_encoding.md R304, "priority 1") do not carry the operands that select the other row. -/

namespace Sys2Proof

/-- The twelve low bits that the eight other group-0 rows take (30_encoding.md R303, R306). -/
def sysTaken (nnn : Addr12) : Bool :=
  nnn == 0x0E0 || nnn.extractLsb' 4 8 == 0x0C || nnn == 0x0FB || nnn == 0x0FC || nnn == 0x0EE || nnn == 0x0FD ||
    nnn == 0x0FE || nnn == 0x0FF

/-- SYS is 0nnn minus the eight group-0 rows above it, and DRW n ≥ 1 is Dxyn minus Dxy0 (30_encoding.md R304). Every other
term is an instruction, with any operands: Fx75 and Fx85 with x > 7 decode and fault when executed (R307). -/
def Instr.wellFormed : Instr → Bool
  | .sys nnn => !sysTaken nnn
  | .drw _ _ n => n != 0
  | .cls | .scd _ | .scr | .scl | .ret | .exitProgram | .low | .high | .jp _ | .call _ | .seImm _ _ | .sneImm _ _
  | .seReg _ _ | .ldImm _ _ | .addImm _ _ | .ldReg _ _ | .orReg _ _ | .andReg _ _ | .xorReg _ _ | .addReg _ _
  | .subReg _ _ | .shrReg _ _ | .subnReg _ _ | .shlReg _ _ | .sneReg _ _ | .ldI _ | .jpV0 _ | .rnd _ _
  | .drwZero _ _ | .skp _ | .sknp _ | .ldVxDt _ | .ldVxKey _ | .ldDtVx _ | .ldStVx _ | .addI _ | .ldFont _
  | .ldHiFont _ | .ldBcd _ | .storeRegs _ | .loadRegs _ | .saveHp48 _ | .loadHp48 _ => true

end Sys2Proof
end

