-- ==== Sys2Proof/Decode.lean ====
section
/-! DEFINITION. The decoder of 30_encoding.md R303, total on every word and on every list of bytes, and after it the
encoder written from the same field layout (R301, R304). -/

namespace Sys2Proof

/-- Why bytes are no instruction. -/
inductive DecodeError where
  /-- fewer than the two bytes every instruction has (30_encoding.md R300, R308) -/
  | truncated
  /-- the word is one of the unknown encodings (30_encoding.md R305) -/
  | unknownOpcode (op : Word)
deriving DecidableEq, Repr

/-! ### The fields of a word (30_encoding.md R301) -/

/-- `hi = op[15:12]`, the first dispatch key. -/
def opHi (op : Word) : Nat := (op.extractLsb' 12 4).toNat

/-- `x = op[11:8]`. -/
def opX (op : Word) : VReg := (op.extractLsb' 8 4).toFin

/-- `y = op[7:4]`. -/
def opY (op : Word) : VReg := (op.extractLsb' 4 4).toFin

/-- `n = op[3:0]`. -/
def opN (op : Word) : Fin 16 := (op.extractLsb' 0 4).toFin

/-- `kk = op[7:0]`. -/
def opKk (op : Word) : Byte := op.extractLsb' 0 8

/-- `nnn = op[11:0]`. -/
def opNnn (op : Word) : Addr12 := op.extractLsb' 0 12

/-- `{a, b}`: two bytes as one big-endian word (00_scope.md R13, 20_memory.md R210). -/
def bigEndian (high low : Byte) : Word := high ++ low

/-- The byte of a word that stands at the lower address. -/
def highByte (w : Word) : Byte := w.extractLsb' 8 8

/-- The byte of a word that stands at the higher address. -/
def lowByte (w : Word) : Byte := w.extractLsb' 0 8

/-! ### The decoder (30_encoding.md R303) -/

/-- Group 0: the eight named words, and SYS for every other. -/
def decodeGroup0 (op : Word) : Instr :=
  if op = 0x00E0 then .cls
  else if op.extractLsb' 4 12 = 0x00C then .scd (opN op)
  else if op = 0x00FB then .scr
  else if op = 0x00FC then .scl
  else if op = 0x00EE then .ret
  else if op = 0x00FD then .exitProgram
  else if op = 0x00FE then .low
  else if op = 0x00FF then .high
  else .sys (opNnn op)

/-- Group 8: the sub-opcode is `n`. -/
def decodeGroup8 (op : Word) : Option Instr :=
  match (opN op).val with
  | 0x0 => some (.ldReg (opX op) (opY op))
  | 0x1 => some (.orReg (opX op) (opY op))
  | 0x2 => some (.andReg (opX op) (opY op))
  | 0x3 => some (.xorReg (opX op) (opY op))
  | 0x4 => some (.addReg (opX op) (opY op))
  | 0x5 => some (.subReg (opX op) (opY op))
  | 0x6 => some (.shrReg (opX op) (opY op))
  | 0x7 => some (.subnReg (opX op) (opY op))
  | 0xE => some (.shlReg (opX op) (opY op))
  | _ => none

/-- Group E: the sub-opcode is `kk`. -/
def decodeGroupE (op : Word) : Option Instr :=
  match (opKk op).toNat with
  | 0x9E => some (.skp (opX op))
  | 0xA1 => some (.sknp (opX op))
  | _ => none

/-- Group F: the sub-opcode is `kk`. -/
def decodeGroupF (op : Word) : Option Instr :=
  match (opKk op).toNat with
  | 0x07 => some (.ldVxDt (opX op))
  | 0x0A => some (.ldVxKey (opX op))
  | 0x15 => some (.ldDtVx (opX op))
  | 0x18 => some (.ldStVx (opX op))
  | 0x1E => some (.addI (opX op))
  | 0x29 => some (.ldFont (opX op))
  | 0x30 => some (.ldHiFont (opX op))
  | 0x33 => some (.ldBcd (opX op))
  | 0x55 => some (.storeRegs (opX op))
  | 0x65 => some (.loadRegs (opX op))
  | 0x75 => some (.saveHp48 (opX op))
  | 0x85 => some (.loadHp48 (opX op))
  | _ => none

/-- The instruction a word is, or none where it is unknown. The decoder reads nothing but the word (R303). -/
def decodeOp (op : Word) : Option Instr :=
  match opHi op with
  | 0x0 => some (decodeGroup0 op)
  | 0x1 => some (.jp (opNnn op))
  | 0x2 => some (.call (opNnn op))
  | 0x3 => some (.seImm (opX op) (opKk op))
  | 0x4 => some (.sneImm (opX op) (opKk op))
  | 0x5 => if opN op = 0 then some (.seReg (opX op) (opY op)) else none
  | 0x6 => some (.ldImm (opX op) (opKk op))
  | 0x7 => some (.addImm (opX op) (opKk op))
  | 0x8 => decodeGroup8 op
  | 0x9 => if opN op = 0 then some (.sneReg (opX op) (opY op)) else none
  | 0xA => some (.ldI (opNnn op))
  | 0xB => some (.jpV0 (opNnn op))
  | 0xC => some (.rnd (opX op) (opKk op))
  | 0xD => some (if opN op = 0 then .drwZero (opX op) (opY op) else .drw (opX op) (opY op) (opN op))
  | 0xE => decodeGroupE op
  | 0xF => decodeGroupF op
  | _ => none

/-- The decoder on a word, naming the word it does not know (30_encoding.md R305). -/
def decodeWord (op : Word) : Except DecodeError Instr :=
  match decodeOp op with
  | some i => .ok i
  | none => .error (.unknownOpcode op)

/-- The decoder on bytes as they stand in memory: two bytes, big-endian (30_encoding.md R300, R308), and the bytes after
them. -/
def decode : List Byte → Except DecodeError (Instr × List Byte)
  | high :: low :: rest => (decodeWord (bigEndian high low)).map fun i => (i, rest)
  | _ => .error .truncated

/-! ### The encoder (30_encoding.md R301, R304) -/

/-- A word of layout `hi x kk`. -/
def packXKk (hi : BitVec 4) (x : VReg) (kk : Byte) : Word := hi ++ BitVec.ofFin (w := 4) x ++ kk

/-- A word of layout `hi x y n`. -/
def packXYN (hi : BitVec 4) (x y n : Fin 16) : Word :=
  hi ++ BitVec.ofFin (w := 4) x ++ BitVec.ofFin (w := 4) y ++ BitVec.ofFin (w := 4) n

/-- A word of layout `hi nnn`. -/
def packNnn (hi : BitVec 4) (nnn : Addr12) : Word := hi ++ nnn

/-- The word of an instruction, from the pattern of its row (30_encoding.md R304). -/
def encode : Instr → Word
  | .cls => 0x00E0
  | .scd n => packXYN 0x0 0 0xC n
  | .scr => 0x00FB
  | .scl => 0x00FC
  | .ret => 0x00EE
  | .exitProgram => 0x00FD
  | .low => 0x00FE
  | .high => 0x00FF
  | .sys nnn => packNnn 0x0 nnn
  | .jp nnn => packNnn 0x1 nnn
  | .call nnn => packNnn 0x2 nnn
  | .seImm x kk => packXKk 0x3 x kk
  | .sneImm x kk => packXKk 0x4 x kk
  | .seReg x y => packXYN 0x5 x y 0x0
  | .ldImm x kk => packXKk 0x6 x kk
  | .addImm x kk => packXKk 0x7 x kk
  | .ldReg x y => packXYN 0x8 x y 0x0
  | .orReg x y => packXYN 0x8 x y 0x1
  | .andReg x y => packXYN 0x8 x y 0x2
  | .xorReg x y => packXYN 0x8 x y 0x3
  | .addReg x y => packXYN 0x8 x y 0x4
  | .subReg x y => packXYN 0x8 x y 0x5
  | .shrReg x y => packXYN 0x8 x y 0x6
  | .subnReg x y => packXYN 0x8 x y 0x7
  | .shlReg x y => packXYN 0x8 x y 0xE
  | .sneReg x y => packXYN 0x9 x y 0x0
  | .ldI nnn => packNnn 0xA nnn
  | .jpV0 nnn => packNnn 0xB nnn
  | .rnd x kk => packXKk 0xC x kk
  | .drwZero x y => packXYN 0xD x y 0x0
  | .drw x y n => packXYN 0xD x y n
  | .skp x => packXKk 0xE x 0x9E
  | .sknp x => packXKk 0xE x 0xA1
  | .ldVxDt x => packXKk 0xF x 0x07
  | .ldVxKey x => packXKk 0xF x 0x0A
  | .ldDtVx x => packXKk 0xF x 0x15
  | .ldStVx x => packXKk 0xF x 0x18
  | .addI x => packXKk 0xF x 0x1E
  | .ldFont x => packXKk 0xF x 0x29
  | .ldHiFont x => packXKk 0xF x 0x30
  | .ldBcd x => packXKk 0xF x 0x33
  | .storeRegs x => packXKk 0xF x 0x55
  | .loadRegs x => packXKk 0xF x 0x65
  | .saveHp48 x => packXKk 0xF x 0x75
  | .loadHp48 x => packXKk 0xF x 0x85

/-- The bytes of an instruction as they stand in memory (30_encoding.md R300). -/
def encodeBytes (i : Instr) : List Byte := [highByte (encode i), lowByte (encode i)]

/-! ### The decoder on a word numbered as spec/opcode_table.json numbers it -/

/-- A word of the opcode table: its `nbits` low bits, every bit above them 0. -/
def tableWord (nbits w : Nat) : Word := BitVec.ofNat 16 (w % 2 ^ nbits)

/-- The instruction the decoder reads from an instruction whose bits are `w`, laid out in memory big-endian. -/
def decodeTableWord (nbits w : Nat) : Option Instr :=
  match decode [highByte (tableWord nbits w), lowByte (tableWord nbits w)] with
  | .ok (i, _) => some i
  | .error _ => none

end Sys2Proof
end

