-- ==== Sys2Proof/Config.lean ====
section
/-! DEFINITION. What an implementation fixes: the parameters of 00_scope.md R10, as plain data, with the spec's
defaults where it gives one and an opaque constant where it gives none. -/

namespace Sys2Proof

/-- The behaviour profile (10_state.md R124). -/
inductive Platform where
  | chip8
  | schip10
  | schip11
deriving DecidableEq, Repr

/-- `lowResScrollScale`: physical pixels per scroll unit in low-res, 1 or 2 (00_scope.md R10, D11). -/
inductive ScrollScale where
  | one
  | two
deriving DecidableEq, Repr

/-- The number a scroll scale stands for. -/
def ScrollScale.toNat : ScrollScale → Nat
  | .one => 1
  | .two => 2

/-- `releaseCheck`: what Fx0A waits on in AwaitingRelease (00_scope.md R10, D14). -/
inductive ReleaseCheck where
  | anyKey
  | recordedKey
deriving DecidableEq, Repr

/-- `ipfRounding`: how IPF is formed from the frequency (00_scope.md R10, D17). -/
inductive IpfRounding where
  | nearest
  | truncate
deriving DecidableEq, Repr

/-- The parameters the source leaves open, "each taken by a model as an argument" (00_scope.md R10).
They are a field of State that nothing writes, so a statement about every state is a statement about every
choice of them. DESIGN CHOICE (log 5). -/
structure Params where
  /-- the multiplier C of the generator, an odd 64-bit integer (47_random.md R1100, D18) -/
  rngMultiplier : Seed
  /-- the bytes of [0x50, 0xA0) after reset (70_reset_and_hazards.md R1401, D19) -/
  fontLo : Vector Byte 80
  /-- the bytes of [0xA0, 0x140) after reset (70_reset_and_hazards.md R1401, D19) -/
  fontHi : Vector Byte 160
  lowResScrollScale : ScrollScale
  releaseCheck : ReleaseCheck
  ipfRounding : IpfRounding
  softResetKeepsConfig : Bool
  fontWriteFaults : Bool
deriving DecidableEq, Repr

/-- The one constraint R10 puts on a parameter: the multiplier is odd. -/
abbrev Params.wf (p : Params) : Prop := p.rngMultiplier.getLsbD 0 = true

/-- Free value: the spec gives no multiplier ("Must not assume any byte sequence from the generator without fixing C",
91_not_in_source.md). No body, so no proof can see it (log 6). -/
opaque Config.freeMultiplier : Seed

/-- Free values: the spec gives no low-res font bytes ("Must not assume any glyph shape", 91_not_in_source.md; log 7). -/
opaque Config.freeFontLo : Nat → Byte

/-- Free values: the spec gives no hi-res font bytes (91_not_in_source.md; log 7). -/
opaque Config.freeFontHi : Nat → Byte

/-- The parameters of the machine at reset: the defaults of 00_scope.md R10 (DESIGN CHOICE, log 5), and free values where
R10 gives no default (log 6, log 7). The multiplier is the free one made odd, since R10 says it is odd. -/
def Params.standard : Params where
  rngMultiplier := Config.freeMultiplier ||| 1
  fontLo := Vector.ofFn fun k => Config.freeFontLo k
  fontHi := Vector.ofFn fun k => Config.freeFontHi k
  lowResScrollScale := .two
  releaseCheck := .anyKey
  ipfRounding := .nearest
  softResetKeepsConfig := true
  fontWriteFaults := true

end Sys2Proof
end

