-- ==== Sys2Proof/Machine/State.lean ====
section
/-! DEFINITION. The state of the core (10_state.md R100 to R126), the ways a step can stop, and the state after reset
(10_state.md R130). -/

namespace Sys2Proof.Machine

open Sys2Proof

/-- The state of the Fx0A protocol (10_state.md R120). -/
inductive KeyWait where
  | idle
  | armedAwaitingPress
  | awaitingRelease
deriving DecidableEq, Repr

/-- The kinds of contract violation (60_exceptions.md R1303), each raised by the operations named. -/
inductive Violation where
  /-- 2nnn with SP = 15 -/
  | stackOverflow
  /-- 00EE with SP = 0 -/
  | stackUnderflow
  /-- Fx75, Fx85 with x > 7 -/
  | hp48Index
  /-- loadProgram of more than 3584 bytes -/
  | programTooLarge
  /-- getPixel outside the 64 rows or the 128 columns -/
  | pixelIndex
  /-- a key number above 15 -/
  | keyIndex
  /-- a data access at an address of 4096 or more -/
  | memOutOfRange
  /-- a write into the font regions while `fontWriteFaults` -/
  | fontWrite
  /-- an instruction step with PC > 4094 -/
  | fetchOutOfRange
  /-- a negative frequency -/
  | badFrequency
deriving DecidableEq, Repr

/-- The record a fault hands to the host (60_exceptions.md R1301, R1304). -/
inductive FaultRecord where
  /-- the unknown word and the address it was fetched from -/
  | unknownOpcode (op fetchPc : Word)
  | contractViolation (kind : Violation)
deriving DecidableEq, Repr

/-- Data memory: the bytes that differ from what reset puts at their address, strictly rising by address
(20_memory.md R200, R202; log 9). -/
abbrev Memory := List Host.Cell

/-- The framebuffer: 64 physical rows of 128 columns, column 0 the most significant bit (45_framebuffer_draw.md R900). The
1024 bytes of the rule are `Screen.byte`. DESIGN CHOICE (log 8). -/
abbrev Screen := Vector Row 64

/-- The state of the core (10_state.md R100). The fields stand in the order of 10_state.md; the last two are the model's
own: `params` (log 5) and `raised` (log 2). -/
structure State where
  /-- data memory, 20_memory.md R200 -/
  memory : Memory
  /-- V0 to VF, R101; V[15] is also the flag register VF, R102 -/
  v : Vector Byte 16
  /-- I, R103 -/
  i : Word
  /-- PC, R104 -/
  pc : Word
  /-- the sixteen return address slots, R107 -/
  stack : Vector Word 16
  /-- SP, R108 -/
  sp : Fin 16
  /-- the hp48 registers, R112 -/
  hp48 : Vector Byte 8
  /-- the delay timer DT, R113 -/
  dt : Byte
  /-- the sound timer ST, R114 -/
  st : Byte
  /-- the key latch, true meaning pressed, R115 -/
  keypad : Vector Bool 16
  /-- the framebuffer, R116 -/
  screen : Screen
  /-- R117 -/
  hiRes : Bool
  /-- R118 -/
  screenUpdated : Bool
  /-- R119 -/
  ended : Bool
  /-- R120 -/
  waitForKey : KeyWait
  /-- the last fetched word, R121 -/
  opcode : Word
  /-- the generator state, R122 -/
  rng : Seed
  /-- instructions per cycle call, R123 -/
  ipf : Nat
  /-- R124 -/
  platform : Platform
  /-- R125 -/
  faulted : Bool
  /-- R126 -/
  initialized : Bool
  /-- the model's own: the parameters of 00_scope.md R10; nothing writes them (log 5) -/
  params : Params
  /-- the model's own: the fault record of the last instruction step or command that raised one, R1301 to R1304 (log 2) -/
  raised : Option FaultRecord
deriving DecidableEq, Repr

/-- Why the machine stops. The faults the spec describes are taken as next states (log 2); what is left is a step asked of a
core that one of them has halted. -/
inductive Fault where
  /-- Raised by `step` alone, when `faulted` is set: "the core is halted for good" (60_exceptions.md R1305). Safe: the spec
  lets such a core do nothing ever again (log 3). -/
  | halted
deriving DecidableEq, Repr

/-- Why the machine gives no meaning. -/
inductive Refusal where
  /-- Raised by the arms of `exec` whose instruction has no meaning yet; no arm is left that raises it. Safe. -/
  | notModelled (mnemonic : String)
  /-- Raised by `step` alone, before the first `initialize`: "every command but `initialize` is refused"
  (48_host_interface.md R1202, 10_state.md R126). Safe: a refused command has no effect (log 3). -/
  | notInitialized
deriving DecidableEq, Repr

/-- The machine right after reset: the "after reset" column of 10_state.md R130. `initialized` is true, as in every core
whose `initialize` has returned (DESIGN CHOICE, log 4); `params` is `Params.standard` (DESIGN CHOICE, log 5; free values,
log 6 and log 7); `raised` is none (DESIGN CHOICE, log 11). -/
def State.reset : State where
  memory := []
  v := Vector.replicate 16 0
  i := 0
  pc := 0x200
  stack := Vector.replicate 16 0
  sp := 0
  hp48 := Vector.replicate 8 0
  dt := 0
  st := 0
  keypad := Vector.replicate 16 false
  screen := Vector.replicate 64 0
  hiRes := false
  screenUpdated := false
  ended := false
  waitForKey := .idle
  opcode := 0
  rng := 0
  ipf := 0
  platform := .chip8
  faulted := false
  initialized := true
  params := Params.standard
  raised := none

end Sys2Proof.Machine
end

