-- ==== Sys2Proof/Machine/Ops.lean ====
section
/-! DEFINITION. The named operations over registers, memory, stack and screen, and taking a fault: everything the meanings
share (10_state.md R109, R110; 20_memory.md R203 to R208; 45_framebuffer_draw.md R901 to R909; 60_exceptions.md R1302,
R1304). -/

namespace Sys2Proof.Machine

open Sys2Proof

/-! ### Taking a fault (60_exceptions.md R1300 to R1309) -/

/-- A contract violation is taken: the operation makes none of its own writes, `faulted` latches and the record is the
response (R1304). -/
def raise (kind : Violation) (s : State) : State :=
  { s with faulted := true, raised := some (.contractViolation kind) }

/-- UnknownOpcode is taken: the fetch writes stay, nothing is executed, the record holds the word and the address it was
fetched from, and the core is not faulted (R1301, R1302). -/
def raiseUnknown (op fetchPc : Word) (s : State) : State :=
  { s with raised := some (.unknownOpcode op fetchPc) }

/-- The host resumes a core that is not faulted: the record of the last response is gone and PC stands after the word that
raised it (R1302, R1309). -/
def resume (s : State) : State := { s with raised := none }

/-- An instruction after its checks: the first violation found is taken, else the instruction has its effect
(00_scope.md R16, 60_exceptions.md R1306). -/
def checked (violation : Option Violation) (s : State) (effect : State) : Host.Outcome State Fault Refusal :=
  match violation with
  | some kind => .next (raise kind s)
  | none => .next effect

/-! ### Registers -/

/-- `V[x] <- b` (00_scope.md R14). -/
def State.writeV (s : State) (x : VReg) (b : Byte) : State := { s with v := s.v.set x b }

/-- `V[k] <- bytes k` for every k in 0..x; the registers past V[x] keep their values (44_index_memory.md R807, R809). -/
def State.loadV (s : State) (x : VReg) (bytes : VReg → Byte) : State :=
  { s with v := Vector.ofFn fun k : VReg => if k ≤ x then bytes k else s.v[k] }

/-- `hp48[k] <- V[k]` for every k in 0..x, x at most 7; the others keep their values (44_index_memory.md R808). -/
def State.storeHp48 (s : State) (x : VReg) : State :=
  { s with hp48 := Vector.ofFn fun k : Fin 8 => if k.val ≤ x.val then s.v[k.val] else s.hp48[k] }

/-- `I <- w`. -/
def State.setI (s : State) (w : Word) : State := { s with i := w }

/-- `DT <- b` (46_keys_timers.md R1004). -/
def State.setDt (s : State) (b : Byte) : State := { s with dt := b }

/-- `ST <- b` (46_keys_timers.md R1005). -/
def State.setSt (s : State) (b : Byte) : State := { s with st := b }

/-- `ended <- true` (41_group0_system.md R505). -/
def State.setEnded (s : State) : State := { s with ended := true }

/-- The resolution switched, which marks the screen (41_group0_system.md R506, R507). -/
def State.setHiRes (s : State) (b : Bool) : State := { s with hiRes := b, screenUpdated := true }

/-- `waitForKey <- w` (46_keys_timers.md R1006). -/
def State.setWait (s : State) (w : KeyWait) : State := { s with waitForKey := w }

/-- PC moved by whole words, modulo 2^16 (10_state.md R104, D23). -/
def State.jumpTo (s : State) (target : Word) : State := { s with pc := target }

/-- `if c: PC <- trunc_16(PC + 2)`: skip one word (30_encoding.md R308). -/
def State.skipIf (s : State) (c : Bool) : State := if c then s.jumpTo (s.pc + 2) else s

/-- `PC <- trunc_16(PC - 2)`: the same word is fetched next (41_group0_system.md R505, 46_keys_timers.md R1006). -/
def State.rewind (s : State) : State := s.jumpTo (s.pc - 2)

/-! ### Stack (10_state.md R109, R110) -/

/-- `SP <- SP + 1; stack[SP] <- w`. Only called with SP < 15. -/
def State.push (s : State) (w : Word) : State :=
  { s with sp := s.sp + 1, stack := s.stack.set (s.sp + 1).val w (s.sp + 1).isLt }

/-- `stack[SP]`, the top return address. -/
def State.top (s : State) : Word := s.stack[s.sp]

/-- `SP <- SP - 1`; the popped slot keeps its value. Only called with SP > 0. -/
def State.pop (s : State) : State := { s with sp := s.sp - 1 }

/-! ### Memory (20_memory.md) -/

/-- The first address past the memory (00_scope.md R9 MEM_SIZE). -/
def memSize : Nat := 4096

/-- The address of the low-res font (00_scope.md R9 FONT_LO_BASE). -/
def fontLoBase : Nat := 0x50

/-- The address of the hi-res font (00_scope.md R9 FONT_HI_BASE). -/
def fontHiBase : Nat := 0xA0

/-- The first address past the two fonts (20_memory.md R202). -/
def fontEnd : Nat := 0x140

/-- Whether an address lies in [0x50, 0x140), the two font regions (20_memory.md R205, R208). -/
def inFont (a : Nat) : Bool := fontLoBase ≤ a && a < fontEnd

/-- What an address reads as while nothing has been written there: the reset contents of memory (10_state.md R130,
70_reset_and_hazards.md R1401). -/
def Memory.unlisted (p : Params) (a : Nat) : Byte :=
  if a < fontLoBase then 0
  else if a < fontHiBase then p.fontLo[a - fontLoBase]?.getD 0
  else if a < fontEnd then p.fontHi[a - fontHiBase]?.getD 0
  else 0

/-- The byte at an address. -/
def Memory.read (p : Params) : Memory → Nat → Byte
  | [], a => Memory.unlisted p a
  | (k, b) :: rest, a => if k = a then b else Memory.read p rest a

/-- The memory without an entry for `a`. -/
def Memory.erase (m : Memory) (a : Nat) : Memory := m.filter fun c => c.1 != a

/-- The memory with the entry `(a, b)`, in its place. -/
def Memory.insert : Memory → Nat → Byte → Memory
  | [], a, b => [(a, b)]
  | (k, c) :: rest, a, b =>
    if a < k then (a, b) :: (k, c) :: rest
    else if a = k then (a, b) :: rest
    else (k, c) :: Memory.insert rest a b

/-- `memory[a] <- b`, keeping the canonical form. -/
def Memory.write (p : Params) (m : Memory) (a : Nat) (b : Byte) : Memory :=
  if b = Memory.unlisted p a then Memory.erase m a else Memory.insert m a b

/-- One byte write after another, at rising addresses from `a`. -/
def Memory.writeList (p : Params) : Memory → Nat → List Byte → Memory
  | m, _, [] => m
  | m, a, b :: rest => Memory.writeList p (Memory.write p m a b) (a + 1) rest

/-- The canonical form: addresses strictly rising and below 4096, and no entry equal to what its address reads as unlisted. -/
abbrev Memory.wf (p : Params) (m : Memory) : Prop :=
  m.Pairwise (fun c d => c.1 < d.1) ∧ ∀ c ∈ m, c.1 < memSize ∧ c.2 ≠ Memory.unlisted p c.1

/-- `memory[a]` (20_memory.md R203 after its check). -/
def State.readByte (s : State) (a : Nat) : Byte := Memory.read s.params s.memory a

/-- `{memory[a], memory[a+1]}`, big-endian (20_memory.md R204 after its check). -/
def State.readWord (s : State) (a : Nat) : Word := s.readByte a ++ s.readByte (a + 1)

/-- `memory[a] <- b` (20_memory.md R205 after its checks). -/
def State.writeByte (s : State) (a : Nat) (b : Byte) : State :=
  { s with memory := Memory.write s.params s.memory a b }

/-- One byte write after another, at rising addresses from `a`. -/
def State.writeBytes (s : State) (a : Nat) (bytes : List Byte) : State :=
  { s with memory := Memory.writeList s.params s.memory a bytes }

/-- The check of a set of reads at the `n` addresses from `a` (20_memory.md R203, R206): none lies at 4096 or above. -/
def readCheck (a n : Nat) : Option Violation :=
  if n = 0 ∨ a + n ≤ memSize then none else some .memOutOfRange

/-- Whether some address of the `n` from `a` lies in the font regions. -/
def touchesFont (a n : Nat) : Bool := (List.range n).any fun k => inFont (a + k)

/-- The checks of a set of writes at the `n` addresses from `a`: MemOutOfRange before FontWrite (20_memory.md R205, R206,
R208). -/
def writeCheck (p : Params) (a n : Nat) : Option Violation :=
  match readCheck a n with
  | some kind => some kind
  | none => if p.fontWriteFaults && touchesFont a n then some .fontWrite else none

/-! ### Screen (45_framebuffer_draw.md) -/

/-- `Pix(r, c)` (R901): lit or not; an index outside the grid reads as clear and is never used. -/
def Screen.pix (scr : Screen) (r c : Nat) : Bool := (scr[r]?.getD 0).getMsbD c

/-- The byte `screen[k]` of the bit-packed grid (R900): row `k div 16`, columns `8 (k mod 16)` and the seven after it, the
first of them in bit 7. -/
def Screen.byte (scr : Screen) (k : Nat) : Byte := (scr[k / 16]?.getD 0).extractLsb' (120 - 8 * (k % 16)) 8

/-- The row with column `c` set to `b`. -/
def rowSet (row : Row) (c : Nat) (b : Bool) : Row :=
  let bit := (1 : Row) <<< (127 - c)
  if b then row ||| bit else row &&& ~~~bit

/-- `SetPix(r, c, b)` (R902): every other bit keeps its value. It is only used inside the grid; outside it writes nothing. -/
def Screen.setPix (scr : Screen) (r c : Nat) (b : Bool) : Screen :=
  if h : r < 64 ∧ c < 128 then scr.set r (rowSet scr[r] c b) else scr

/-- `ClearScreen()` (R904). -/
def Screen.clear : Screen := Vector.replicate 64 0

/-- `ScrollDown(k)` (R905): every row moves down `k` rows, the top `k` rows become clear. -/
def Screen.scrollDown (scr : Screen) (k : Nat) : Screen :=
  Vector.ofFn fun r : Fin 64 => if k ≤ r.val then scr[r.val - k] else 0

/-- `ScrollRight(k)` (R906): every row, a 128-bit value with column 0 as its most significant bit, is shifted right. -/
def Screen.scrollRight (scr : Screen) (k : Nat) : Screen := scr.map fun row : Row => row >>> k

/-- `ScrollLeft(k)` (R907): the mirror of `scrollRight`. -/
def Screen.scrollLeft (scr : Screen) (k : Nat) : Screen := scr.map fun row : Row => row <<< k

/-- `W`, the columns of the current resolution (R903). -/
def logicalCols (hiRes : Bool) : Nat := if hiRes then 128 else 64

/-- `H`, the rows of the current resolution (R903). -/
def logicalRows (hiRes : Bool) : Nat := if hiRes then 64 else 32

/-- `ds`, the draw scale (R903). -/
def drawScale (hiRes : Bool) : Nat := if hiRes then 1 else 2

/-- `scrollScale()` (R908). -/
def State.scrollScale (s : State) : Nat := if s.hiRes then 1 else s.params.lowResScrollScale.toNat

/-- The physical pixels, as (row, column), of the logical pixel in column `lx` and row `ly` (R903). -/
def blockPixels (ds lx ly : Nat) : List (Nat × Nat) :=
  (List.range ds).flatMap fun dr => (List.range ds).map fun dc => (ds * ly + dr, ds * lx + dc)

/-- XOR one lit physical pixel, gathering the collision bit (the body of the loop of R909). -/
def plotPixel (acc : Screen × Bool) (at_ : Nat × Nat) : Screen × Bool :=
  (acc.1.setPix at_.1 at_.2 (!acc.1.pix at_.1 at_.2), acc.2 || acc.1.pix at_.1 at_.2)

/-- `Plot(lx, ly)` on a screen and the collision gathered so far (R909). -/
def plot (ds : Nat) (acc : Screen × Bool) (l : Nat × Nat) : Screen × Bool :=
  (blockPixels ds l.1 l.2).foldl plotPixel acc

/-- The logical pixels, as (column, row), on which a sprite row drawn with its leftmost pixel at (`ox`, `ly`) has a lit bit;
bit `w - 1` is the leftmost, and columns at or past `cols` are clipped (R910, R911). -/
def litInRow {w : Nat} (cols ox ly : Nat) (bits : BitVec w) : List (Nat × Nat) :=
  ((List.range w).filter fun c => decide (ox + c < cols) && bits.getMsbD c).map fun c => (ox + c, ly)

/-- The lit logical pixels of a sprite, row by row from the origin down (R910, R911). -/
def litInSprite {w : Nat} (cols ox : Nat) : Nat → List (BitVec w) → List (Nat × Nat)
  | _, [] => []
  | ly, bits :: rest => litInRow cols ox ly bits ++ litInSprite cols ox (ly + 1) rest

/-- A sprite drawn onto a screen, with its collision bit: every lit sprite bit is plotted, in order (R910, R911). -/
def drawSprite {w : Nat} (hiRes : Bool) (ox oy : Nat) (sprite : List (BitVec w)) (scr : Screen) : Screen × Bool :=
  (litInSprite (logicalCols hiRes) ox oy sprite).foldl (plot (drawScale hiRes)) (scr, false)

/-- The screen written by an instruction, which marks it (10_state.md R118). -/
def State.writeScreen (s : State) (scr : Screen) : State := { s with screen := scr, screenUpdated := true }

/-! ### Keys (10_state.md R115) -/

/-- `exists k in 0..15 with keypad[k]`. -/
def State.anyKey (s : State) : Bool := s.keypad.toList.any id

/-- The least `k` with `keypad[k]`, scanning in ascending order (46_keys_timers.md R1006). -/
def State.firstKey (s : State) : Option Nat := s.keypad.toList.findIdx? id

/-- `keypad[k]` for a register value `k`; none is an index above 15, a violation (46_keys_timers.md R1000). -/
def State.keyDown (s : State) (k : Byte) : Option Bool := s.keypad[k.toNat]?

/-! ### Generator (47_random.md R1100) -/

/-- `rng <- trunc_64(rng * rngMultiplier + 1)`. -/
def State.stepRng (s : State) : State := { s with rng := s.rng * s.params.rngMultiplier + 1 }

/-- `rng[63:56]`. -/
def State.rngByte (s : State) : Byte := s.rng.extractLsb' 56 8

end Sys2Proof.Machine
end

