-- ==== Sys2Proof/Machine/Operands.lean ====
section
/-! DEFINITION. The operand forms: registers, immediates and addresses as 30_encoding.md R302 assembles them, and the
operands that depend on the platform (43_alu.md R710, R712; 42_control_flow.md R606; 44_index_memory.md R805). -/

namespace Sys2Proof.Machine

open Sys2Proof

/-- VF, the flag register (10_state.md R102). -/
def regF : VReg := 15

/-- V0. -/
def reg0 : VReg := 0

/-- `V[x]` (00_scope.md R14). -/
def State.readV (s : State) (x : VReg) : Byte := s.v[x]

/-- `zext_16(nnn)` (30_encoding.md R302). -/
def addrWord (nnn : Addr12) : Word := nnn.setWidth 16

/-- `zext_16` of a register value. -/
def byteWord (b : Byte) : Word := b.setWidth 16

/-- The source of a shift: under Chip8 it is V[y], else V[x] (43_alu.md R710, R712). -/
def State.shiftSource (s : State) (x y : VReg) : Byte :=
  match s.platform with
  | .chip8 => s.readV y
  | .schip10 | .schip11 => s.readV x

/-- The nibble `x` of an address field, `nnn[11:8]` (42_control_flow.md R606). -/
def addrX (nnn : Addr12) : VReg := (nnn.extractLsb' 8 4).toFin

/-- The base register of Bnnn: V[x] under the S-CHIP platforms, else V[0] (42_control_flow.md R606). -/
def State.jumpBase (s : State) (nnn : Addr12) : Byte :=
  match s.platform with
  | .chip8 => s.readV reg0
  | .schip10 | .schip11 => s.readV (addrX nnn)

/-- `incI(x)`, the increment of I after Fx55 and Fx65 (44_index_memory.md R805). -/
def State.incI (s : State) (x : VReg) : Nat :=
  match s.platform with
  | .chip8 => x.val + 1
  | .schip10 => x.val
  | .schip11 => 0

/-- `I <- trunc_16(I + n)`. -/
def State.advanceI (s : State) (n : Nat) : State := s.setI (s.i + BitVec.ofNat 16 n)

/-- The registers V0 to Vx in ascending order (44_index_memory.md R806). -/
def State.regsUpTo (s : State) (x : VReg) : List Byte := s.v.toList.take (x.val + 1)

/-- The decimal digits of a byte: hundreds, tens, units (44_index_memory.md R804). -/
def bcdDigits (b : Byte) : List Byte :=
  [BitVec.ofNat 8 (b.toNat / 100), BitVec.ofNat 8 (b.toNat / 10 % 10), BitVec.ofNat 8 (b.toNat % 10)]

/-- The origin column of a sprite, `V[x] mod W` (45_framebuffer_draw.md R910). -/
def State.originX (s : State) (x : VReg) : Nat := (s.readV x).toNat % logicalCols s.hiRes

/-- The origin row of a sprite, `V[y] mod H` (45_framebuffer_draw.md R910). -/
def State.originY (s : State) (y : VReg) : Nat := (s.readV y).toNat % logicalRows s.hiRes

/-- The rows of an `n`-row sprite that are not clipped: `min(n, H - oy)` (45_framebuffer_draw.md R910). -/
def State.drawnRows (s : State) (y : VReg) (n : Nat) : Nat := min n (logicalRows s.hiRes - s.originY y)

/-- The 8-pixel rows of a sprite at I (45_framebuffer_draw.md R910). -/
def State.spriteBytes (s : State) (rows : Nat) : List Byte := (List.range rows).map fun r => s.readByte (s.i.toNat + r)

/-- The 16-pixel rows of a sprite at I, big-endian (45_framebuffer_draw.md R911). -/
def State.spriteWords (s : State) (rows : Nat) : List Word := (List.range rows).map fun r => s.readWord (s.i.toNat + 2 * r)

end Sys2Proof.Machine
end

