-- ==== Sys2Proof/Machine/Flags.lean ====
section
/-! DEFINITION. The flag computations and the order in which a flag-setting instruction writes (43_alu.md R701, R708 to
R712; 45_framebuffer_draw.md R910). -/

namespace Sys2Proof.Machine

open Sys2Proof

/-- A flag as VF holds it: 1 or 0. -/
def flagByte (f : Bool) : Byte := if f then 1 else 0

/-- Carry out: the 9-bit sum exceeds 255 (43_alu.md R708). -/
def carryOut (a b : Byte) : Bool := decide (a.toNat + b.toNat > 255)

/-- No borrow in `a - b`, with the strict comparison of the source: equal operands give 0 (43_alu.md R709, R711). -/
def noBorrow (a b : Byte) : Bool := decide (a.toNat > b.toNat)

/-- The bit a right shift loses, `src & 1` (43_alu.md R710). -/
def shiftedOutRight (src : Byte) : Bool := src.getLsbD 0

/-- The bit a left shift loses, `src >> 7` (43_alu.md R712). -/
def shiftedOutLeft (src : Byte) : Bool := src.getLsbD 7

/-- `VF <- flag`. -/
def State.writeFlag (s : State) (f : Bool) : State := s.writeV regF (flagByte f)

/-- The result to V[x], then the flag to VF, last: with x = 15 the flag is what VF holds (43_alu.md R701). -/
def State.writeFlagged (s : State) (x : VReg) (result : Byte) (f : Bool) : State := (s.writeV x result).writeFlag f

end Sys2Proof.Machine
end

