-- ==== Sys2Proof/Machine/Alu.lean ====
section
/-! DEFINITION. The register and arithmetic instructions (43_alu.md R702 to R712): every one completes for every operand
value, and touches neither memory nor PC. -/

namespace Sys2Proof.Machine

open Sys2Proof

/-- LD Vx, kk (R702). -/
def execLdImm (x : VReg) (kk : Byte) (s : State) : Host.Outcome State Fault Refusal := .next (s.writeV x kk)

/-- ADD Vx, kk (R703): wraps, no flag. -/
def execAddImm (x : VReg) (kk : Byte) (s : State) : Host.Outcome State Fault Refusal :=
  .next (s.writeV x (s.readV x + kk))

/-- LD Vx, Vy (R704). -/
def execLdReg (x y : VReg) (s : State) : Host.Outcome State Fault Refusal := .next (s.writeV x (s.readV y))

/-- OR Vx, Vy (R705): VF is not reset. -/
def execOrReg (x y : VReg) (s : State) : Host.Outcome State Fault Refusal :=
  .next (s.writeV x (s.readV x ||| s.readV y))

/-- AND Vx, Vy (R706): VF is not reset. -/
def execAndReg (x y : VReg) (s : State) : Host.Outcome State Fault Refusal :=
  .next (s.writeV x (s.readV x &&& s.readV y))

/-- XOR Vx, Vy (R707): VF is not reset. -/
def execXorReg (x y : VReg) (s : State) : Host.Outcome State Fault Refusal :=
  .next (s.writeV x (s.readV x ^^^ s.readV y))

/-- ADD Vx, Vy (R708): VF is the carry out. -/
def execAddReg (x y : VReg) (s : State) : Host.Outcome State Fault Refusal :=
  let a := s.readV x
  let b := s.readV y
  .next (s.writeFlagged x (a + b) (carryOut a b))

/-- SUB Vx, Vy (R709): VF is 1 when `Vx > Vy`, strictly. -/
def execSubReg (x y : VReg) (s : State) : Host.Outcome State Fault Refusal :=
  let a := s.readV x
  let b := s.readV y
  .next (s.writeFlagged x (a - b) (noBorrow a b))

/-- SHR Vx, Vy (R710): the source depends on the platform. -/
def execShrReg (x y : VReg) (s : State) : Host.Outcome State Fault Refusal :=
  let src := s.shiftSource x y
  .next (s.writeFlagged x (src >>> 1) (shiftedOutRight src))

/-- SUBN Vx, Vy (R711): VF is 1 when `Vy > Vx`, strictly. -/
def execSubnReg (x y : VReg) (s : State) : Host.Outcome State Fault Refusal :=
  let a := s.readV x
  let b := s.readV y
  .next (s.writeFlagged x (b - a) (noBorrow b a))

/-- SHL Vx, Vy (R712): the source depends on the platform. -/
def execShlReg (x y : VReg) (s : State) : Host.Outcome State Fault Refusal :=
  let src := s.shiftSource x y
  .next (s.writeFlagged x (src <<< 1) (shiftedOutLeft src))

end Sys2Proof.Machine
end

