-- ==== Sys2Proof/Machine/ControlFlow.lean ====
section
/-! DEFINITION. Jumps, calls and skips (42_control_flow.md R600 to R606). PC is fetchPc + 2 on entry; no target is checked
when it is written. -/

namespace Sys2Proof.Machine

open Sys2Proof

/-- JP nnn (R600). -/
def execJp (nnn : Addr12) (s : State) : Host.Outcome State Fault Refusal := .next (s.jumpTo (addrWord nnn))

/-- CALL nnn (R601): push PC, which is fetchPc + 2, then jump; StackOverflow when SP = 15 (10_state.md R109). -/
def execCall (nnn : Addr12) (s : State) : Host.Outcome State Fault Refusal :=
  checked (if s.sp = 15 then some .stackOverflow else none) s ((s.push s.pc).jumpTo (addrWord nnn))

/-- SE Vx, kk (R602). -/
def execSeImm (x : VReg) (kk : Byte) (s : State) : Host.Outcome State Fault Refusal :=
  .next (s.skipIf (s.readV x == kk))

/-- SNE Vx, kk (R603). -/
def execSneImm (x : VReg) (kk : Byte) (s : State) : Host.Outcome State Fault Refusal :=
  .next (s.skipIf (s.readV x != kk))

/-- SE Vx, Vy (R604). -/
def execSeReg (x y : VReg) (s : State) : Host.Outcome State Fault Refusal :=
  .next (s.skipIf (s.readV x == s.readV y))

/-- SNE Vx, Vy (R605). -/
def execSneReg (x y : VReg) (s : State) : Host.Outcome State Fault Refusal :=
  .next (s.skipIf (s.readV x != s.readV y))

/-- JP V0, nnn (R606): the whole 12-bit nnn is added, also where its nibble x selects the register; the sum is not reduced to
12 bits. -/
def execJpV0 (nnn : Addr12) (s : State) : Host.Outcome State Fault Refusal :=
  .next (s.jumpTo (byteWord (s.jumpBase nnn) + addrWord nnn))

end Sys2Proof.Machine
end

