-- ==== Sys2Proof/Machine/Draw.lean ====
section
/-! DEFINITION. The draw instructions (45_framebuffer_draw.md R910 to R913). -/

namespace Sys2Proof.Machine

open Sys2Proof

/-- What a drawing leaves: the screen, its mark, and the collision bit in VF, last (R910, R913). -/
def State.finishDraw (s : State) (drawn : Screen × Bool) : State := (s.writeScreen drawn.1).writeFlag drawn.2

/-- DRW Vx, Vy, n with n ≥ 1 (R910): an 8-wide sprite; clipped rows are neither read nor checked. -/
def execDrw (x y : VReg) (n : Fin 16) (s : State) : Host.Outcome State Fault Refusal :=
  let rows := s.drawnRows y n.val
  checked (readCheck s.i.toNat rows) s
    (s.finishDraw (drawSprite s.hiRes (s.originX x) (s.originY y) (s.spriteBytes rows) s.screen))

/-- DRW Vx, Vy, 0: in hi-res a 16×16 sprite (R911); in low-res no row is drawn and no memory is read, VF becomes 0 and the
screen is marked (R912). -/
def execDrwZero (x y : VReg) (s : State) : Host.Outcome State Fault Refusal :=
  if s.hiRes then
    let rows := s.drawnRows y 16
    checked (readCheck s.i.toNat (2 * rows)) s
      (s.finishDraw (drawSprite s.hiRes (s.originX x) (s.originY y) (s.spriteWords rows) s.screen))
  else .next (s.finishDraw (s.screen, false))

end Sys2Proof.Machine
end

