-- ==== Sys2Proof/Machine/Group0.lean ====
section
/-! DEFINITION. The group 0 instructions (41_group0_system.md R500 to R508). PC is fetchPc + 2 on entry. -/

namespace Sys2Proof.Machine

open Sys2Proof

/-- CLS (R500): all 1024 screen bytes become 0. -/
def execCls (s : State) : Host.Outcome State Fault Refusal := .next (s.writeScreen Screen.clear)

/-- SCD n (R501): scroll down `n * scrollScale()` physical rows. -/
def execScd (n : Fin 16) (s : State) : Host.Outcome State Fault Refusal :=
  .next (s.writeScreen (s.screen.scrollDown (n.val * s.scrollScale)))

/-- SCR (R502): scroll right `4 * scrollScale()` physical columns. -/
def execScr (s : State) : Host.Outcome State Fault Refusal :=
  .next (s.writeScreen (s.screen.scrollRight (4 * s.scrollScale)))

/-- SCL (R503): scroll left `4 * scrollScale()` physical columns. -/
def execScl (s : State) : Host.Outcome State Fault Refusal :=
  .next (s.writeScreen (s.screen.scrollLeft (4 * s.scrollScale)))

/-- RET (R504): `PC <- pop()`, StackUnderflow when SP = 0 (10_state.md R110). -/
def execRet (s : State) : Host.Outcome State Fault Refusal :=
  checked (if s.sp = 0 then some .stackUnderflow else none) s (s.pop.jumpTo s.top)

/-- EXIT (R505): `ended <- true`, and the same word is fetched next. -/
def execExit (s : State) : Host.Outcome State Fault Refusal := .next s.rewind.setEnded

/-- LOW (R506): marks the screen only when the resolution changes. -/
def execLow (s : State) : Host.Outcome State Fault Refusal :=
  .next (if s.hiRes then s.setHiRes false else s)

/-- HIGH (R507): as LOW. -/
def execHigh (s : State) : Host.Outcome State Fault Refusal :=
  .next (if s.hiRes then s else s.setHiRes true)

/-- SYS nnn (R508): no operation. -/
def execSys (_nnn : Addr12) (s : State) : Host.Outcome State Fault Refusal := .next s

end Sys2Proof.Machine
end

