-- ==== Sys2Proof/Machine/IndexMemory.lean ====
section
/-! DEFINITION. Index register, memory transfer and hp48 registers (44_index_memory.md R800 to R810). Every check of an
instruction stands before its first write. -/

namespace Sys2Proof.Machine

open Sys2Proof

/-- LD I, nnn (R800). -/
def execLdI (nnn : Addr12) (s : State) : Host.Outcome State Fault Refusal := .next (s.setI (addrWord nnn))

/-- ADD I, Vx (R801): modulo 2^16, no flag. -/
def execAddI (x : VReg) (s : State) : Host.Outcome State Fault Refusal :=
  .next (s.advanceI (s.readV x).toNat)

/-- LD F, Vx (R802): V[x] is not reduced to its low nibble. -/
def execLdFont (x : VReg) (s : State) : Host.Outcome State Fault Refusal :=
  .next (s.setI (BitVec.ofNat 16 (fontLoBase + 5 * (s.readV x).toNat)))

/-- LD HF, Vx (R803): V[x] is not reduced to its low nibble. -/
def execLdHiFont (x : VReg) (s : State) : Host.Outcome State Fault Refusal :=
  .next (s.setI (BitVec.ofNat 16 (fontHiBase + 10 * (s.readV x).toNat)))

/-- LD B, Vx (R804): the three decimal digits at I, I+1, I+2; I is unchanged. -/
def execLdBcd (x : VReg) (s : State) : Host.Outcome State Fault Refusal :=
  checked (writeCheck s.params s.i.toNat 3) s (s.writeBytes s.i.toNat (bcdDigits (s.readV x)))

/-- LD [I], Vx (R806): V0 to Vx to memory at I, then the platform's increment of I (R805). -/
def execStoreRegs (x : VReg) (s : State) : Host.Outcome State Fault Refusal :=
  checked (writeCheck s.params s.i.toNat (x.val + 1)) s
    ((s.writeBytes s.i.toNat (s.regsUpTo x)).advanceI (s.incI x))

/-- LD Vx, [I] (R807): V0 to Vx from memory at I, then the platform's increment of I (R805). -/
def execLoadRegs (x : VReg) (s : State) : Host.Outcome State Fault Refusal :=
  checked (readCheck s.i.toNat (x.val + 1)) s
    ((s.loadV x fun k => s.readByte (s.i.toNat + k.val)).advanceI (s.incI x))

/-- The check of Fx75 and Fx85: x ≤ 7 (R810). -/
def hp48Check (x : VReg) : Option Violation := if x.val > 7 then some .hp48Index else none

/-- LD R, Vx (R808): V0 to Vx to the hp48 registers. -/
def execSaveHp48 (x : VReg) (s : State) : Host.Outcome State Fault Refusal :=
  checked (hp48Check x) s (s.storeHp48 x)

/-- LD Vx, R (R809): V0 to Vx from the hp48 registers. -/
def execLoadHp48 (x : VReg) (s : State) : Host.Outcome State Fault Refusal :=
  checked (hp48Check x) s (s.loadV x fun k => s.hp48[k.val]?.getD s.v[k])

end Sys2Proof.Machine
end

