-- ==== Sys2Proof/Machine/KeysTimers.lean ====
section
/-! DEFINITION. Key input and timer instructions (46_keys_timers.md R1000 to R1009). -/

namespace Sys2Proof.Machine

open Sys2Proof

/-- An instruction that uses a register value as a key number: above 15 it is ContractViolation(KeyIndex) and changes
nothing (R1000). -/
def withKey (k : Byte) (s : State) (effect : Bool → State) : Host.Outcome State Fault Refusal :=
  match s.keyDown k with
  | none => .next (raise .keyIndex s)
  | some down => .next (effect down)

/-- SKP Vx (R1001). -/
def execSkp (x : VReg) (s : State) : Host.Outcome State Fault Refusal :=
  withKey (s.readV x) s fun down => s.skipIf down

/-- SKNP Vx (R1002). -/
def execSknp (x : VReg) (s : State) : Host.Outcome State Fault Refusal :=
  withKey (s.readV x) s fun down => s.skipIf (!down)

/-- LD Vx, DT (R1003). -/
def execLdVxDt (x : VReg) (s : State) : Host.Outcome State Fault Refusal := .next (s.writeV x s.dt)

/-- LD DT, Vx (R1004). -/
def execLdDtVx (x : VReg) (s : State) : Host.Outcome State Fault Refusal := .next (s.setDt (s.readV x))

/-- LD ST, Vx (R1005). -/
def execLdStVx (x : VReg) (s : State) : Host.Outcome State Fault Refusal := .next (s.setSt (s.readV x))

/-- The AwaitingRelease state of Fx0A once it is known whether the key is held (R1006). -/
def releaseStep (s : State) (held : Bool) : State := if held then s.rewind else s.setWait .idle

/-- LD Vx, K (R1006 to R1008): the three states of the key wait; every step but the last one rewinds PC. -/
def execLdVxKey (x : VReg) (s : State) : Host.Outcome State Fault Refusal :=
  match s.waitForKey with
  | .idle => .next (if s.anyKey then s.rewind.setWait .armedAwaitingPress else s.rewind)
  | .armedAwaitingPress =>
    match s.firstKey with
    | some k => .next ((s.rewind.writeV x (BitVec.ofNat 8 k)).setWait .awaitingRelease)
    | none => .next s.rewind
  | .awaitingRelease =>
    match s.params.releaseCheck with
    | .anyKey => .next (releaseStep s s.anyKey)
    | .recordedKey => withKey (s.readV x) s (releaseStep s)

end Sys2Proof.Machine
end

