-- ==== Sys2Proof/Machine/Random.lean ====
section
/-! DEFINITION. The random byte (47_random.md R1100, R1102). -/

namespace Sys2Proof.Machine

open Sys2Proof

/-- RND Vx, kk (R1102): the generator advances, also with kk = 0, and the top byte of its new state is masked. -/
def execRnd (x : VReg) (kk : Byte) (s : State) : Host.Outcome State Fault Refusal :=
  .next (s.stepRng.writeV x (s.stepRng.rngByte &&& kk))

end Sys2Proof.Machine
end

