-- ==== Sys2Proof/Machine/Fetch.lean ====
section
/-! DEFINITION. The instruction step of 40_cycle.md R402: fetch, decode, execute; and the placing of a word where the next
step fetches it. -/

namespace Sys2Proof.Machine

open Sys2Proof

/-- A fetch needs both bytes inside memory: PC ≤ 4094 (R403). -/
def State.canFetch (s : State) : Bool := decide (s.pc.toNat ≤ 4094)

/-- The word at PC, big-endian, whatever the parity of PC (R402, 20_memory.md R210, R211). -/
def State.fetchedWord (s : State) : Word := s.readWord s.pc.toNat

/-- The fetch writes of a step that fetched `op`: `opcode <- op`, `PC <- trunc_16(PC + 2)`, and the record of an earlier
step's fault is gone (R402, 60_exceptions.md R1302). -/
def State.afterFetch (s : State) (op : Word) : State := { (resume s).jumpTo (s.pc + 2) with opcode := op }

/-- One instruction step (R402): FetchOutOfRange before the fetch (R403), UnknownOpcode after the decode with the address the
word was fetched from (60_exceptions.md R1301, R1306), else the instruction's meaning on the state the fetch leaves. -/
def instructionStep (s : State) : Host.Outcome State Fault Refusal :=
  if s.canFetch then
    match decodeWord s.fetchedWord with
    | .ok i => exec i (s.afterFetch s.fetchedWord)
    | .error _ => .next (raiseUnknown s.fetchedWord s.pc (s.afterFetch s.fetchedWord))
  else .next (raise .fetchOutOfRange s)

/-- A core that is ready to fetch: accepted, not halted, and with PC at an address both of whose bytes exist; where PC is at
none, the entry point 0x200 (log 10). -/
def readyToFetch (s : State) : State :=
  { s with initialized := true, faulted := false, pc := if s.canFetch then s.pc else 0x200 }

/-- A word laid out big-endian at PC. -/
def placeWord (s : State) (op : Word) : State := s.writeBytes s.pc.toNat [highByte op, lowByte op]

end Sys2Proof.Machine
end

