-- ==== Sys2Proof/Machine/Step.lean ====
section
/-! DEFINITION. One step of the core: an instruction step, asked of a core that runs (log 1). -/

namespace Sys2Proof.Machine

open Sys2Proof

/-- One step. A core halted by a contract violation is halted for good (60_exceptions.md R1305), and before `initialize` the
core runs nothing (10_state.md R126); otherwise one instruction step of 40_cycle.md R402. -/
def step (s : State) : Host.Outcome State Fault Refusal :=
  if s.faulted then .fault .halted
  else if s.initialized then instructionStep s
  else .refused .notInitialized

/-- The state whose next step fetches and runs the word `w` of the opcode table (log 10). -/
def State.withFetchWord (s : State) (nbits w : Nat) : State := placeWord (readyToFetch s) (tableWord nbits w)

end Sys2Proof.Machine
end

