-- ==== Sys2Proof/Machine/Port.lean ====
section
/-! DEFINITION. The host command interface (48_host_interface.md R1200 to R1211), the cycle driver (40_cycle.md R400 to
R407), `tickTimers` (60_exceptions.md R1320) and the lifecycle commands (70_reset_and_hazards.md R1400 to R1405). -/

namespace Sys2Proof.Machine

open Sys2Proof

/-- The commands of 48_host_interface.md R1201, with their arguments (log 13). -/
inductive Command where
  /-- `initialize(frequencyHz, platform, seed)` -/
  | init (frequencyHz : Int) (platform : Platform) (seed : Seed)
  | loadProgram (bytes : List Byte)
  | cycle
  | tickTimers
  | isSoundActive
  | isScreenUpdated
  | hasEnded
  | getPixel (row col : Nat)
  | getLastOpcode
  | pressKey (k : Nat)
  | releaseKey (k : Nat)
  | setFrequency (hz : Int)
  | setPlatform (p : Platform)
  | softReset
deriving DecidableEq, Repr

/-- The responses of R1201. -/
inductive Response where
  /-- a command without a result -/
  | done
  /-- `Ok` of a cycle call -/
  | ok
  /-- `Err(UnknownOpcode(op, pc))` of a cycle call -/
  | unknownOpcode (op pc : Word)
  /-- `Fault(kind)` -/
  | fault (kind : Violation)
  | bool (b : Bool)
  | word (w : Word)
deriving DecidableEq, Repr

/-- The response a fault record is (60_exceptions.md R1302, R1304). -/
def FaultRecord.response : FaultRecord → Response
  | .unknownOpcode op pc => .unknownOpcode op pc
  | .contractViolation kind => .fault kind

/-- A command that raises a contract violation (60_exceptions.md R1304). -/
def violate (kind : Violation) (s : State) : Response × State := (.fault kind, raise kind s)

/-! ### Lifecycle (70_reset_and_hazards.md) -/

/-- The first address of the program region (00_scope.md R9 PROG_START). -/
def progStart : Nat := 0x200

/-- The largest program (00_scope.md R9 PROG_MAX). -/
def progMax : Nat := 3584

/-- `reset()` (R1400): every field to its reset value, the fonts installed (they are what unlisted memory reads as), and the
two fields of the spec's own, `faulted` and `initialized`, unchanged. -/
def resetCore (s : State) : State :=
  { State.reset with params := s.params, faulted := s.faulted, initialized := s.initialized }

/-- `ipf(hz)` (48_host_interface.md R1207); none is a negative frequency. -/
def ipfOf (p : Params) (hz : Int) : Option Nat :=
  if hz < 0 then none
  else
    match p.ipfRounding with
    | .nearest => some ((hz.toNat + 30) / 60)
    | .truncate => some (hz.toNat / 60)

/-- `initialize` (R1403): the frequency is checked before any write. -/
def cmdInit (hz : Int) (p : Platform) (seed : Seed) (s : State) : Response × State :=
  match ipfOf s.params hz with
  | none => violate .badFrequency s
  | some n => (.done, { resetCore s with ipf := n, platform := p, rng := seed, initialized := true })

/-- `softReset` (R1404): everything but memory, `faulted` and `initialized`; the configuration too unless the parameter keeps
it; PC at 0x200 and the screen marked. -/
def cmdSoftReset (s : State) : Response × State :=
  let keep := s.params.softResetKeepsConfig
  (.done, { resetCore s with
    memory := s.memory
    screenUpdated := true
    ipf := if keep then s.ipf else 0
    platform := if keep then s.platform else .chip8
    rng := if keep then s.rng else 0 })

/-- `loadProgram` (R1405): the given bytes at 0x200, nothing else. -/
def cmdLoadProgram (bytes : List Byte) (s : State) : Response × State :=
  if bytes.length > progMax then violate .programTooLarge s else (.done, s.writeBytes progStart bytes)

/-! ### Running (40_cycle.md) -/

/-- The loop of R404: up to `n` instruction steps, stopping at the first fault. The last two arms answer a step that gives
no next state; no step does (log 16). -/
def cycleLoop : Nat → State → Response × State
  | 0, s => (.ok, s)
  | n + 1, s =>
    match instructionStep s with
    | .next t =>
      match t.raised with
      | none => cycleLoop n t
      | some record => (record.response, t)
    | .fault _ => (.done, s)
    | .refused _ => (.done, s)

/-- `cycle` (R400, R401): `screenUpdated` is cleared first, whatever follows; then IPF steps. -/
def cmdCycle (s : State) : Response × State := cycleLoop s.ipf { resume s with screenUpdated := false }

/-- `tickTimers` (60_exceptions.md R1320). -/
def cmdTickTimers (s : State) : Response × State :=
  (.done, { s with dt := if s.dt = 0 then 0 else s.dt - 1, st := if s.st = 0 then 0 else s.st - 1 })

/-! ### Queries and mutators (48_host_interface.md) -/

/-- `getPixel` (R1206), in physical coordinates whatever the resolution. -/
def cmdGetPixel (row col : Nat) (s : State) : Response × State :=
  if row > 63 ∨ col > 127 then violate .pixelIndex s else (.bool (s.screen.pix row col), s)

/-- `pressKey` (R1210) and `releaseKey` (R1211). -/
def cmdSetKey (k : Nat) (down : Bool) (s : State) : Response × State :=
  if h : k < 16 then (.done, { s with keypad := s.keypad.set k down }) else violate .keyIndex s

/-- `setFrequency` (R1207). -/
def cmdSetFrequency (hz : Int) (s : State) : Response × State :=
  match ipfOf s.params hz with
  | none => violate .badFrequency s
  | some n => (.done, { s with ipf := n })

/-- The effect and the response of an accepted command (R1201). -/
def perform (c : Command) (s : State) : Response × State :=
  match c with
  | .init hz p seed => cmdInit hz p seed s
  | .loadProgram bytes => cmdLoadProgram bytes s
  | .cycle => cmdCycle s
  | .tickTimers => cmdTickTimers s
  | .isSoundActive => (.bool (decide (s.st.toNat > 0)), s)
  | .isScreenUpdated => (.bool s.screenUpdated, s)
  | .hasEnded => (.bool s.ended, s)
  | .getPixel row col => cmdGetPixel row col s
  | .getLastOpcode => (.word s.opcode, s)
  | .pressKey k => cmdSetKey k true s
  | .releaseKey k => cmdSetKey k false s
  | .setFrequency hz => cmdSetFrequency hz s
  | .setPlatform p => (.done, { s with platform := p })
  | .softReset => cmdSoftReset s

/-- Whether a command is `initialize`. -/
def Command.isInit : Command → Bool
  | .init _ _ _ => true
  | _ => false

/-- Acceptance (R1202): nothing while `faulted`, and only `initialize` before the first `initialize`. -/
def State.accepts (s : State) (c : Command) : Bool := !s.faulted && (s.initialized || c.isInit)

/-- A command issued at the port: one atomic transaction (R1200), or none where it is refused, without effect or response
(R1202). -/
def issue (c : Command) (s : State) : Option (Response × State) := if s.accepts c then some (perform c s) else none

end Sys2Proof.Machine
end

