-- ==== Sys2Proof/Safety.lean ====
section
/-! DEFINITION. The terms claims are stated in: what stays true along every run, what a run may not change, and what is a
safe run. -/

namespace Sys2Proof.Machine

open Sys2Proof

/-- What holds in every state a core can be in after `initialize`, and what a step and a command keep. -/
structure State.Inv (s : State) : Prop where
  /-- memory is in its canonical form (the model's choice, log 9), inside the 4096 addresses (20_memory.md R200) -/
  memoryCanonical : s.memory.wf s.params
  /-- the multiplier is odd (00_scope.md R10) -/
  oddMultiplier : s.params.wf
  /-- slot 0 of the stack is never written (10_state.md R111, 70_reset_and_hazards.md R1416) -/
  slotZero : s.stack[0] = 0
  /-- the fonts are as reset left them, where a write to them faults (20_memory.md R208): no font byte is
  listed (log 9) -/
  fontsIntact : s.params.fontWriteFaults = true → ∀ c ∈ s.memory, inFont c.1 = false
  /-- a core is halted exactly when its last record is a contract violation (60_exceptions.md R1304, R1305) -/
  haltedByViolation : s.faulted = true ↔ ∃ kind, s.raised = some (.contractViolation kind)

/-- A core before its first `initialize`: nothing else is known of its state (10_state.md R131). -/
def State.isPowerOn (s : State) : Prop := s.initialized = false ∧ s.faulted = false

/-- A core that runs: after `initialize` and not halted. -/
def State.running (s : State) : Prop := s.initialized = true ∧ s.faulted = false

/-- Every byte of memory reads as before. -/
def State.sameBytes (s t : State) : Prop := ∀ a, t.readByte a = s.readByte a

/-- Every byte outside the `n` addresses from `a` reads as before. -/
def State.sameBytesOutside (s t : State) (a n : Nat) : Prop := ∀ k, k < a ∨ a + n ≤ k → t.readByte k = s.readByte k

/-! ### Frames: what an operation leaves unchanged -/

/-- At most the general registers of `xs` have changed. -/
def State.sameButV (s t : State) (xs : List VReg) : Prop :=
  (∀ z : VReg, z ∉ xs → t.v[z] = s.v[z]) ∧ { t with v := s.v } = s ∧ s.sameBytes t

/-- At most PC has changed. -/
def State.sameButPc (s t : State) : Prop := { t with pc := s.pc } = s ∧ s.sameBytes t

/-- At most I has changed. -/
def State.sameButI (s t : State) : Prop := { t with i := s.i } = s ∧ s.sameBytes t

/-- At most the screen and its mark have changed. -/
def State.sameButScreen (s t : State) : Prop :=
  { t with screen := s.screen, screenUpdated := s.screenUpdated } = s ∧ s.sameBytes t

/-- At most VF, the screen and its mark have changed. -/
def State.sameButDrawing (s t : State) : Prop :=
  (∀ z : VReg, z ≠ 15 → t.v[z] = s.v[z]) ∧
    { t with v := s.v, screen := s.screen, screenUpdated := s.screenUpdated } = s ∧ s.sameBytes t

/-- A contract violation of this kind was taken and nothing else has changed (60_exceptions.md R1304). -/
def State.violated (s t : State) (kind : Violation) : Prop :=
  t.faulted = true ∧ t.raised = some (.contractViolation kind) ∧
    { t with faulted := s.faulted, raised := s.raised } = s ∧ s.sameBytes t

/-! ### Words as numbers (30_encoding.md R301) -/

/-- The word with fields `hi`, `x`, `kk`. -/
def wordXKk (hi : Nat) (x : VReg) (kk : Byte) : Word := BitVec.ofNat 16 (0x1000 * hi + 0x100 * x.val + kk.toNat)

/-- The word with fields `hi`, `x`, `y`, `n`. -/
def wordXYN (hi : Nat) (x y n : Fin 16) : Word :=
  BitVec.ofNat 16 (0x1000 * hi + 0x100 * x.val + 0x10 * y.val + n.val)

/-- The word with fields `hi`, `nnn`. -/
def wordNnn (hi : Nat) (nnn : Addr12) : Word := BitVec.ofNat 16 (0x1000 * hi + nnn.toNat)

/-! ### Sprites -/

/-- Whether the sprite bit that falls on physical pixel (r, c) is lit: the pixel is scaled down to its logical one
(45_framebuffer_draw.md R903), which must lie in the `rows` drawn rows and the `width` columns from the origin; `rowAt k` is
sprite row `k` as a number, its leftmost pixel in bit `width - 1` (R910, R911). -/
def State.spriteLit (s : State) (ox oy rows width : Nat) (rowAt : Nat → Nat) (r c : Nat) : Bool :=
  let ds := if s.hiRes then 1 else 2
  decide (oy ≤ r / ds ∧ r / ds < oy + rows ∧ ox ≤ c / ds ∧ c / ds < ox + width) &&
    (rowAt (r / ds - oy)).testBit (width - 1 - (c / ds - ox))

/-! ### Runs -/

/-- The meanings of a list of instructions, one after another, none once a fault has been raised. -/
def execAll : List Instr → State → Option State
  | [], s => some s
  | i :: rest, s =>
    match exec i s with
    | .next t => if t.faulted then none else execAll rest t
    | .fault _ => none
    | .refused _ => none

/-- Commands issued one after another, none once one is refused; the last state. -/
def issueAll : List Command → State → Option State
  | [], s => some s
  | c :: rest, s =>
    match issue c s with
    | some (_, t) => issueAll rest t
    | none => none

/-- `n` steps, one after another, as the host runs them. -/
def runSteps : Nat → State → Host.Outcome State Fault Refusal
  | 0, s => .next s
  | n + 1, s =>
    match step s with
    | .next t => runSteps n t
    | .fault f => .fault f
    | .refused r => .refused r

/-- `n` steps that raise no fault of either class: a safe run. -/
def safeRun : Nat → State → Prop
  | 0, _ => True
  | n + 1, s => ∃ t, step s = .next t ∧ t.raised = none ∧ safeRun n t

end Sys2Proof.Machine
end

