-- ==== Sys2Proof/Certificates/Slice0/Obligations.lean ====
section
/-! DEFINITION. What is stated of the core, one definition a statement, from the numbered rules of spec/. A meaning runs on the
state its fetch leaves, so `s.pc` is fetchPc + 2 wherever `exec` is applied to `s` (40_cycle.md R402). -/

open Sys2Proof Sys2Proof.Machine

/-! ## Encoding -/

/-- Decoding the bytes of a well-formed instruction gives it back, with the bytes that follow it (30_encoding.md R300 to R304). -/
def Obligations.DecodeEncodeRoundTrip : Prop :=
  ∀ (i : Instr) (rest : List Byte), i.wellFormed = true → decode (encodeBytes i ++ rest) = .ok (i, rest)

/-- A word that decodes is the word the encoder writes for what it decodes to, and that instruction is well formed: no two
words share an instruction (30_encoding.md R303). -/
def Obligations.EncodeDecodeRoundTrip : Prop :=
  ∀ (op : Word) (i : Instr), decodeWord op = .ok i → i.wellFormed = true ∧ encode i = op

/-- The unknown encodings are exactly those of the table of 30_encoding.md R305, with `hi`, `n`, `kk` read off the word as a
number. -/
def Obligations.UnknownWordsAreThoseOfTheTable : Prop :=
  ∀ op : Word,
    let hi := op.toNat / 0x1000
    let n := op.toNat % 0x10
    let kk := op.toNat % 0x100
    decodeWord op = .error (.unknownOpcode op) ↔
      (hi = 0x5 ∧ n ≠ 0) ∨ (hi = 0x8 ∧ n ∈ [0x8, 0x9, 0xA, 0xB, 0xC, 0xD, 0xF]) ∨ (hi = 0x9 ∧ n ≠ 0) ∨
      (hi = 0xE ∧ kk ∉ [0x9E, 0xA1]) ∨
      (hi = 0xF ∧ kk ∉ [0x07, 0x0A, 0x15, 0x18, 0x1E, 0x29, 0x30, 0x33, 0x55, 0x65, 0x75, 0x85])

/-- The `match` and `mask` columns and the priority of 30_encoding.md R304, row by row. -/
def tableRow : Instr → Word × Word × Nat
  | .cls => (0x00E0, 0xFFFF, 0)
  | .scd _ => (0x00C0, 0xFFF0, 0)
  | .scr => (0x00FB, 0xFFFF, 0)
  | .scl => (0x00FC, 0xFFFF, 0)
  | .ret => (0x00EE, 0xFFFF, 0)
  | .exitProgram => (0x00FD, 0xFFFF, 0)
  | .low => (0x00FE, 0xFFFF, 0)
  | .high => (0x00FF, 0xFFFF, 0)
  | .sys _ => (0x0000, 0xF000, 1)
  | .jp _ => (0x1000, 0xF000, 0)
  | .call _ => (0x2000, 0xF000, 0)
  | .seImm _ _ => (0x3000, 0xF000, 0)
  | .sneImm _ _ => (0x4000, 0xF000, 0)
  | .seReg _ _ => (0x5000, 0xF00F, 0)
  | .ldImm _ _ => (0x6000, 0xF000, 0)
  | .addImm _ _ => (0x7000, 0xF000, 0)
  | .ldReg _ _ => (0x8000, 0xF00F, 0)
  | .orReg _ _ => (0x8001, 0xF00F, 0)
  | .andReg _ _ => (0x8002, 0xF00F, 0)
  | .xorReg _ _ => (0x8003, 0xF00F, 0)
  | .addReg _ _ => (0x8004, 0xF00F, 0)
  | .subReg _ _ => (0x8005, 0xF00F, 0)
  | .shrReg _ _ => (0x8006, 0xF00F, 0)
  | .subnReg _ _ => (0x8007, 0xF00F, 0)
  | .shlReg _ _ => (0x800E, 0xF00F, 0)
  | .sneReg _ _ => (0x9000, 0xF00F, 0)
  | .ldI _ => (0xA000, 0xF000, 0)
  | .jpV0 _ => (0xB000, 0xF000, 0)
  | .rnd _ _ => (0xC000, 0xF000, 0)
  | .drwZero _ _ => (0xD000, 0xF00F, 0)
  | .drw _ _ _ => (0xD000, 0xF000, 1)
  | .skp _ => (0xE09E, 0xF0FF, 0)
  | .sknp _ => (0xE0A1, 0xF0FF, 0)
  | .ldVxDt _ => (0xF007, 0xF0FF, 0)
  | .ldVxKey _ => (0xF00A, 0xF0FF, 0)
  | .ldDtVx _ => (0xF015, 0xF0FF, 0)
  | .ldStVx _ => (0xF018, 0xF0FF, 0)
  | .addI _ => (0xF01E, 0xF0FF, 0)
  | .ldFont _ => (0xF029, 0xF0FF, 0)
  | .ldHiFont _ => (0xF030, 0xF0FF, 0)
  | .ldBcd _ => (0xF033, 0xF0FF, 0)
  | .storeRegs _ => (0xF055, 0xF0FF, 0)
  | .loadRegs _ => (0xF065, 0xF0FF, 0)
  | .saveHp48 _ => (0xF075, 0xF0FF, 0)
  | .loadHp48 _ => (0xF085, 0xF0FF, 0)

/-- Every word that decodes matches the row of its instruction, and every word that matches a row decodes to an instruction
whose row it matches too and whose priority is as good: where two rows match, the row marked "priority 0" wins
(30_encoding.md R304). -/
def Obligations.RowsSelectByMatchAndMask : Prop :=
  (∀ (op : Word) (i : Instr), decodeWord op = .ok i → op &&& (tableRow i).2.1 = (tableRow i).1) ∧
  (∀ (op : Word) (j : Instr), op &&& (tableRow j).2.1 = (tableRow j).1 →
    ∃ i, decodeWord op = .ok i ∧ op &&& (tableRow i).2.1 = (tableRow i).1 ∧ (tableRow i).2.2 ≤ (tableRow j).2.2)

/-- Words written out from the spec's encodings and its examples decode to the instructions they stand for
(30_encoding.md R304; the examples of 95_test_vectors.md). A sanity statement. -/
def Obligations.WrittenWordsDecode : Prop :=
  decode [0x00, 0xE0] = .ok (.cls, []) ∧ decode [0x00, 0xC3] = .ok (.scd 3, []) ∧
  decode [0x01, 0x23] = .ok (.sys 0x123, []) ∧ decode [0x23, 0x00] = .ok (.call 0x300, []) ∧
  decode [0x33, 0x12] = .ok (.seImm 3 0x12, []) ∧ decode [0x80, 0x16] = .ok (.shrReg 0 1, []) ∧
  decode [0xA2, 0xF0] = .ok (.ldI 0x2F0, []) ∧ decode [0xB2, 0x00] = .ok (.jpV0 0x200, []) ∧
  decode [0xC5, 0x0F] = .ok (.rnd 5 0x0F, []) ∧ decode [0xD0, 0x14] = .ok (.drw 0 1 4, []) ∧
  decode [0xD1, 0x20] = .ok (.drwZero 1 2, []) ∧ decode [0xE5, 0xA1] = .ok (.sknp 5, []) ∧
  decode [0xF3, 0x0A] = .ok (.ldVxKey 3, []) ∧ decode [0xF0, 0x33] = .ok (.ldBcd 0, []) ∧
  decode [0x51, 0x21] = .error (.unknownOpcode 0x5121) ∧ decode [0x00] = .error .truncated

/-! ## Reset, initialize, soft reset, load -/

/-- What `reset` leaves (70_reset_and_hazards.md R1400, R1401): every field zeroed, the fonts installed, PC = 0x200, and the
two fields of the spec's own unchanged. -/
def Obligations.ResetZeroesAndInstallsFonts : Prop :=
  ∀ s : State,
    let t := resetCore s
    (∀ x : VReg, t.v[x] = 0) ∧ t.i = 0 ∧ t.pc = 0x200 ∧ (∀ k : Fin 16, t.stack[k] = 0) ∧ t.sp = 0 ∧
    (∀ k : Fin 8, t.hp48[k] = 0) ∧ t.dt = 0 ∧ t.st = 0 ∧ (∀ k : Fin 16, t.keypad[k] = false) ∧
    (∀ k, k < 1024 → t.screen.byte k = 0) ∧ t.hiRes = false ∧ t.screenUpdated = false ∧ t.ended = false ∧
    t.waitForKey = .idle ∧ t.opcode = 0 ∧ t.rng = 0 ∧ t.ipf = 0 ∧ t.platform = .chip8 ∧
    t.faulted = s.faulted ∧ t.initialized = s.initialized ∧
    (∀ k : Fin 80, t.readByte (0x50 + k.val) = s.params.fontLo[k]) ∧
    (∀ k : Fin 160, t.readByte (0xA0 + k.val) = s.params.fontHi[k]) ∧
    (∀ a, a < 0x50 ∨ (0x140 ≤ a ∧ a < 4096) → t.readByte a = 0)

/-- `initialize` on a core that is not halted (70_reset_and_hazards.md R1403): a full reset, then IPF, platform, rng and
`initialized`; a negative frequency is BadFrequency before any write. How `violated` holds the response is the model's
choice (log 2). -/
def Obligations.InitializeResetsAndConfigures : Prop :=
  ∀ (f : Int) (p : Platform) (seed : Seed) (s : State), s.faulted = false →
    (0 ≤ f → ∃ t, issue (.init f p seed) s = some (.done, t) ∧
      t.ipf = (if s.params.ipfRounding = .nearest then (f.toNat + 30) / 60 else f.toNat / 60) ∧
      t.platform = p ∧ t.rng = seed ∧ t.initialized = true ∧
      { t with ipf := 0, platform := .chip8, rng := 0, initialized := s.initialized } = resetCore s) ∧
    (f < 0 → ∃ t, issue (.init f p seed) s = some (.fault .badFrequency, t) ∧ s.violated t .badFrequency)

/-- After `initialize` nothing is left of the state before it: two cores with the same parameters become equal, whatever
they held, as at power-on (10_state.md R131). -/
def Obligations.InitializeForgetsThePast : Prop :=
  ∀ (f : Int) (p : Platform) (seed : Seed) (s₁ s₂ : State), 0 ≤ f → s₁.params = s₂.params → s₁.faulted = false →
    s₂.faulted = false →
    ∃ t, issue (.init f p seed) s₁ = some (.done, t) ∧ issue (.init f p seed) s₂ = some (.done, t)

/-- `softReset` (70_reset_and_hazards.md R1404): memory, `faulted` and `initialized` are kept, the configuration too unless
`softResetKeepsConfig` is false, PC = 0x200, the screen is marked, and every other field takes its reset value. -/
def Obligations.SoftResetKeepsMemory : Prop :=
  ∀ s : State, s.running →
    ∃ t, issue .softReset s = some (.done, t) ∧
      t.memory = s.memory ∧ s.sameBytes t ∧ t.screenUpdated = true ∧ t.pc = 0x200 ∧
      (s.params.softResetKeepsConfig = true → t.ipf = s.ipf ∧ t.platform = s.platform ∧ t.rng = s.rng) ∧
      (s.params.softResetKeepsConfig = false → t.ipf = 0 ∧ t.platform = .chip8 ∧ t.rng = 0) ∧
      { t with memory := [], screenUpdated := false, ipf := 0, platform := .chip8, rng := 0 } =
        { resetCore s with memory := [] }

/-- `loadProgram` (70_reset_and_hazards.md R1405): the bytes stand at 0x200 onward and nothing else changes; more than
3584 bytes are ProgramTooLarge. How `violated` holds the response is the model's choice (log 2). -/
def Obligations.LoadProgramCopiesBytes : Prop :=
  ∀ (bytes : List Byte) (s : State), s.running →
    (bytes.length ≤ 3584 → ∃ t, issue (.loadProgram bytes) s = some (.done, t) ∧
      (∀ k (h : k < bytes.length), t.readByte (0x200 + k) = bytes[k]) ∧
      s.sameBytesOutside t 0x200 bytes.length ∧ { t with memory := s.memory } = s) ∧
    (3584 < bytes.length → ∃ t, issue (.loadProgram bytes) s = some (.fault .programTooLarge, t) ∧
      s.violated t .programTooLarge)

/-! ## The other host commands -/

/-- `setFrequency` (48_host_interface.md R1207): IPF is hz/60 rounded as the parameter says, and nothing else changes; a
negative frequency is BadFrequency. How `violated` holds the response is the model's choice (log 2). -/
def Obligations.SetFrequencyRounds : Prop :=
  ∀ (hz : Int) (s : State), s.running →
    (0 ≤ hz → ∃ t, issue (.setFrequency hz) s = some (.done, t) ∧
      (s.params.ipfRounding = .nearest → t.ipf = (hz.toNat + 30) / 60) ∧
      (s.params.ipfRounding = .truncate → t.ipf = hz.toNat / 60) ∧ { t with ipf := s.ipf } = s) ∧
    (hz < 0 → ∃ t, issue (.setFrequency hz) s = some (.fault .badFrequency, t) ∧ s.violated t .badFrequency)

/-- `setPlatform`, `pressKey`, `releaseKey` (48_host_interface.md R1208, R1210, R1211): each writes its one field or
latch and nothing else; a key number above 15 is KeyIndex. How `violated` holds the response is the model's choice (log
2). -/
def Obligations.PlatformAndKeyCommands : Prop :=
  ∀ s : State, s.running →
    (∀ p, ∃ t, issue (.setPlatform p) s = some (.done, t) ∧ t.platform = p ∧ { t with platform := s.platform } = s) ∧
    (∀ k : Fin 16, ∃ t, issue (.pressKey k.val) s = some (.done, t) ∧ t.keypad[k] = true ∧
      (∀ j : Fin 16, j ≠ k → t.keypad[j] = s.keypad[j]) ∧ { t with keypad := s.keypad } = s) ∧
    (∀ k : Fin 16, ∃ t, issue (.releaseKey k.val) s = some (.done, t) ∧ t.keypad[k] = false ∧
      (∀ j : Fin 16, j ≠ k → t.keypad[j] = s.keypad[j]) ∧ { t with keypad := s.keypad } = s) ∧
    (∀ k, 15 < k → (∃ t, issue (.pressKey k) s = some (.fault .keyIndex, t) ∧ s.violated t .keyIndex) ∧
      ∃ t, issue (.releaseKey k) s = some (.fault .keyIndex, t) ∧ s.violated t .keyIndex)

/-- The queries (48_host_interface.md R1203 to R1206, R1209) answer what the state holds and change nothing; `getPixel`
reads bit 7 - (col mod 8) of byte 16 row + col div 8, and an index outside the grid is PixelIndex. How `violated` holds
the response is the model's choice (log 2). -/
def Obligations.QueriesReadAndChangeNothing : Prop :=
  ∀ s : State, s.running →
    issue .isSoundActive s = some (.bool (decide (s.st ≠ 0)), s) ∧
    issue .isScreenUpdated s = some (.bool s.screenUpdated, s) ∧
    issue .hasEnded s = some (.bool s.ended, s) ∧
    issue .getLastOpcode s = some (.word s.opcode, s) ∧
    (∀ row col, row ≤ 63 → col ≤ 127 →
      issue (.getPixel row col) s = some (.bool ((s.screen.byte (16 * row + col / 8)).getLsbD (7 - col % 8)), s)) ∧
    (∀ row col, 63 < row ∨ 127 < col →
      ∃ t, issue (.getPixel row col) s = some (.fault .pixelIndex, t) ∧ s.violated t .pixelIndex)

/-- `tickTimers` (60_exceptions.md R1320): both timers count down by one, stopping at 0, and nothing else changes. -/
def Obligations.TickTimersCountsDown : Prop :=
  ∀ s : State, s.running →
    ∃ t, issue .tickTimers s = some (.done, t) ∧ t.dt.toNat = s.dt.toNat - 1 ∧ t.st.toNat = s.st.toNat - 1 ∧
      { t with dt := s.dt, st := s.st } = s

/-- Acceptance (48_host_interface.md R1202, 60_exceptions.md R1305, 10_state.md R126): a halted core accepts no command, nor a
step; before `initialize` only `initialize` is accepted; a running core accepts every command.
That a step of a core that accepts no `cycle` answers a fault or a refusal is the model's choice (log 3). -/
def Obligations.AcceptanceOfCommands : Prop :=
  (∀ (c : Command) (s : State), s.faulted = true → issue c s = none ∧ step s = .fault .halted) ∧
  (∀ s : State, s.isPowerOn → step s = .refused .notInitialized ∧
    (∀ f p seed, (issue (.init f p seed) s).isSome = true) ∧
    (∀ c : Command, (∀ f p seed, c ≠ .init f p seed) → issue c s = none)) ∧
  (∀ (c : Command) (s : State), s.running → (issue c s).isSome = true)

/-! ## Invariant -/

/-- The invariant holds right after reset, and the model's reset state is one that `reset` leaves. What State.reset holds
beyond the spec's values is the model's choice: `initialized` (log 4), `params` (log 5), `raised` (log 11); so is the canonical
form of memory that the invariant asks for (log 9). -/
def Obligations.InvariantHoldsAtReset : Prop := State.reset.Inv ∧ resetCore State.reset = State.reset

/-- Every step keeps the invariant: canonical memory inside 4096 bytes (the canonical form is the model's choice, log 9), an
odd multiplier, stack slot 0 at 0, the fonts intact where writing them faults (said over that form: no font byte is listed,
log 9), and a core halted exactly by a contract violation (whose record in `raised` is the model's way to hold the response,
log 2). -/
def Obligations.StepKeepsInvariant : Prop := ∀ s t : State, s.Inv → step s = .next t → t.Inv

/-- Every accepted host command keeps the invariant (logs 2 and 9, as for the step), a whole cycle call among them. -/
def Obligations.CommandKeepsInvariant : Prop :=
  ∀ (c : Command) (s t : State) (r : Response), s.Inv → issue c s = some (r, t) → t.Inv

/-! ## The step and the cycle driver -/

/-- A step of a running core whose two bytes at PC decode is the meaning of the decoded instruction, run on a state that
differs from the one before in PC, moved past the word, in `opcode`, and in the record of an earlier fault (40_cycle.md
R402). The field `raised` is the model's own (log 2). -/
def Obligations.StepRunsDecodedInstruction : Prop :=
  ∀ (s : State) (i : Instr), s.running → s.pc.toNat ≤ 4094 →
    decodeWord (bigEndian (s.readByte s.pc.toNat) (s.readByte (s.pc.toNat + 1))) = .ok i →
    ∃ u, step s = exec i u ∧ u.pc = s.pc + 2 ∧
      u.opcode = bigEndian (s.readByte s.pc.toNat) (s.readByte (s.pc.toNat + 1)) ∧ u.raised = none ∧
      { u with pc := s.pc, opcode := s.opcode, raised := s.raised } = s

/-- A fetch from PC > 4094 is FetchOutOfRange, and `opcode` and PC keep their values (40_cycle.md R403). How `violated`
holds the response is the model's choice (log 2). -/
def Obligations.FetchOutOfRangeFaults : Prop :=
  ∀ s : State, s.running → 4094 < s.pc.toNat → ∃ t, step s = .next t ∧ s.violated t .fetchOutOfRange

/-- An unknown word (60_exceptions.md R1301, R1302): the record holds the word and the address it was fetched from, only
the fetch writes are made, the core is not halted and its next step is that of a core without the record; a cycle call
that meets it first returns the error at once. The field `raised` is the model's own (log 2). -/
def Obligations.UnknownOpcodeIsReportedAndResumable : Prop :=
  ∀ (s : State) (op : Word), s.running → s.pc.toNat ≤ 4094 → s.fetchedWord = op →
    decodeWord op = .error (.unknownOpcode op) →
    ∃ t, step s = .next t ∧ t.raised = some (.unknownOpcode op s.pc) ∧ t.opcode = op ∧ t.pc = s.pc + 2 ∧ t.running ∧
      { t with raised := s.raised, opcode := s.opcode, pc := s.pc } = s ∧ s.sameBytes t ∧
      step t = step { t with raised := none } ∧
      (1 ≤ s.ipf → issue .cycle s = some (.unknownOpcode op s.pc, { t with screenUpdated := false }))

/-- A running core always takes a step, and no step changes the configuration, the keys, or whether it is initialized
(40_cycle.md R408; 60_exceptions.md R1300). -/
def Obligations.RunningCoreAlwaysSteps : Prop :=
  ∀ s : State, s.running → ∃ t, step s = .next t ∧ t.initialized = true ∧ t.params = s.params ∧ t.keypad = s.keypad ∧
    t.ipf = s.ipf ∧ t.platform = s.platform

/-- A cycle call clears `screenUpdated` and runs IPF steps; m + n steps are m steps, and then, where those raised no
fault, n more from where they ended: the call stops at its first fault and nothing is rolled back (40_cycle.md R401,
R404, R405); with IPF = 0 it runs none (R407). The field `raised` is the model's own (log 2). -/
def Obligations.CycleStopsAtFirstFault : Prop :=
  (∀ s : State, s.running →
    issue .cycle s = some (cycleLoop s.ipf { s with screenUpdated := false, raised := none })) ∧
  (∀ s : State, cycleLoop 0 s = (.ok, s)) ∧
  (∀ s t : State, s.running → step s = .next t →
    cycleLoop 1 s = ((match t.raised with | none => .ok | some record => record.response), t)) ∧
  (∀ (m n : Nat) (s : State), cycleLoop (m + n) s =
    if (cycleLoop m s).1 = .ok then cycleLoop n (cycleLoop m s).2 else cycleLoop m s)

/-- Once 00FD stands at PC, any number of steps leaves the state of one: `ended` set and PC still at the word
(40_cycle.md R406, 41_group0_system.md R505). The field `raised` is the model's own (log 2). -/
def Obligations.ExitSpins : Prop :=
  ∀ (s : State) (n : Nat), s.running → s.pc.toNat ≤ 4094 → s.fetchedWord = 0x00FD → 1 ≤ n →
    cycleLoop n s = (.ok, { s with ended := true, opcode := 0x00FD, raised := none })

/-- Fx0A with no key down never advances PC, however many steps run (46_keys_timers.md R1009, 95_test_vectors.md X9).
The field `raised` is the model's own (log 2). -/
def Obligations.KeyWaitStallsWithoutKeys : Prop :=
  ∀ (x : VReg) (s : State) (n : Nat), s.running → s.pc.toNat ≤ 4094 → s.fetchedWord = wordXKk 0xF x 0x0A →
    s.waitForKey = .idle → (∀ k : Fin 16, s.keypad[k] = false) → 1 ≤ n →
    cycleLoop n s = (.ok, { s with opcode := wordXKk 0xF x 0x0A, raised := none })

/-- The key wait completes: press, two cycle calls, release, one more call, and V[x] holds the key, PC has moved past the
word and the wait is Idle again, under either release check (46_keys_timers.md R1006, R1007; 95_test_vectors.md X9). -/
def Obligations.KeyWaitCompletesAfterRelease : Prop :=
  ∀ (x : VReg) (k : Fin 16) (s : State), s.running → s.pc.toNat ≤ 4094 → s.fetchedWord = wordXKk 0xF x 0x0A →
    s.waitForKey = .idle → (∀ j : Fin 16, s.keypad[j] = false) → s.ipf = 1 →
    ∃ t, issueAll [.pressKey k.val, .cycle, .cycle, .releaseKey k.val, .cycle] s = some t ∧
      t.v[x].toNat = k.val ∧ (∀ z : VReg, z ≠ x → t.v[z] = s.v[z]) ∧ t.pc = s.pc + 2 ∧ t.waitForKey = .idle ∧
      t.keypad = s.keypad ∧ t.running

/-- Zeroed memory runs as SYS no-ops, two bytes a step, up to PC = 0x1000, where the next step is FetchOutOfRange
(70_reset_and_hazards.md R1413). How `violated` holds the response is the model's choice (log 2). -/
def Obligations.ZeroedMemoryRunsOffTheEnd : Prop :=
  ∀ (s : State) (n : Nat), s.running → s.raised = none → s.pc.toNat + 2 * n = 4096 →
    (∀ a, s.pc.toNat ≤ a → a < 4096 → s.readByte a = 0) → 1 ≤ n →
    safeRun n s ∧ ∃ t u, runSteps n s = .next t ∧ t.pc = 0x1000 ∧
      { t with pc := s.pc, opcode := s.opcode } = s ∧ step t = .next u ∧ t.violated u .fetchOutOfRange

/-! ## Memory -/

/-- A byte write changes the byte it names and no other, and the next fetch sees it (20_memory.md R212, R215). -/
def Obligations.MemoryReadsLastWrite : Prop :=
  ∀ (s : State) (a : Nat) (b : Byte),
    (∀ k, (s.writeByte a b).readByte k = if k = a then b else s.readByte k) ∧
    { s.writeByte a b with memory := s.memory } = s ∧
    (s.writeByte a b).fetchedWord =
      bigEndian (if s.pc.toNat = a then b else s.readByte s.pc.toNat)
        (if s.pc.toNat + 1 = a then b else s.readByte (s.pc.toNat + 1))

/-- DESIGN CHOICE of the model (log 9), no rule of the spec: memory is a list in the canonical form `Memory.wf`, which lists
only the bytes that differ from the reset contents (10_state.md R130 gives those contents, and nothing of the form). Two
memories in that form that read the same at every address below 4096 are the same data. -/
def Obligations.EqualReadsAreEqualMemories : Prop :=
  ∀ (p : Params) (m₁ m₂ : Memory), m₁.wf p → m₂.wf p → (∀ a, a < 4096 → m₁.read p a = m₂.read p a) → m₁ = m₂

/-- The fonts are never changed by a step while writing them faults (20_memory.md R208). -/
def Obligations.StepNeverChangesFonts : Prop :=
  ∀ (s t : State) (a : Nat), s.params.fontWriteFaults = true → step s = .next t → 0x50 ≤ a → a < 0x140 →
    t.readByte a = s.readByte a

/-! ## Group 0 -/

/-- CLS (41_group0_system.md R500, 45_framebuffer_draw.md R904): all 1024 bytes become 0, the screen is marked, nothing else
changes. -/
def Obligations.ClsClearsEveryByte : Prop :=
  decodeWord 0x00E0 = .ok .cls ∧
  ∀ s : State, ∃ t, exec .cls s = .next t ∧ (∀ k, k < 1024 → t.screen.byte k = 0) ∧
    (∀ r c, t.screen.pix r c = false) ∧ t.screenUpdated = true ∧ s.sameButScreen t

/-- SCD n (41_group0_system.md R501, 45_framebuffer_draw.md R905): every physical row moves down n times the scroll unit, the
rows above become clear, the screen is marked. -/
def Obligations.ScdMovesRowsDown : Prop :=
  ∀ (n : Fin 16) (s : State),
    decodeWord (BitVec.ofNat 16 (0x00C0 + n.val)) = .ok (.scd n) ∧
    ∃ t, exec (.scd n) s = .next t ∧
      (let k := n.val * (if s.hiRes then 1 else if s.params.lowResScrollScale = .one then 1 else 2)
       ∀ r c, r < 64 → c < 128 → t.screen.pix r c = if k ≤ r then s.screen.pix (r - k) c else false) ∧
      t.screenUpdated = true ∧ s.sameButScreen t

/-- SCR and SCL (41_group0_system.md R502, R503, 45_framebuffer_draw.md R906, R907): every physical row moves right or left by
four times the scroll unit, the columns left behind become clear, the screen is marked. -/
def Obligations.ScrAndSclMoveColumns : Prop :=
  decodeWord 0x00FB = .ok .scr ∧ decodeWord 0x00FC = .ok .scl ∧
  ∀ s : State,
    let k := 4 * (if s.hiRes then 1 else if s.params.lowResScrollScale = .one then 1 else 2)
    (∃ t, exec .scr s = .next t ∧
      (∀ r c, r < 64 → c < 128 → t.screen.pix r c = if k ≤ c then s.screen.pix r (c - k) else false) ∧
      t.screenUpdated = true ∧ s.sameButScreen t) ∧
    (∃ t, exec .scl s = .next t ∧
      (∀ r c, r < 64 → c < 128 → t.screen.pix r c = if c + k < 128 then s.screen.pix r (c + k) else false) ∧
      t.screenUpdated = true ∧ s.sameButScreen t)

/-- RET (41_group0_system.md R504, 10_state.md R110): the top slot goes to PC and SP falls by one, the slot keeps its
value; with SP = 0 it is StackUnderflow. How `violated` holds the response is the model's choice (log 2). -/
def Obligations.RetPopsReturnAddress : Prop :=
  decodeWord 0x00EE = .ok .ret ∧
  ∀ s : State,
    (0 < s.sp.val → ∃ t, exec .ret s = .next t ∧ t.pc = s.stack[s.sp] ∧ t.sp.val = s.sp.val - 1 ∧
      { t with pc := s.pc, sp := s.sp } = s ∧ s.sameBytes t) ∧
    (s.sp.val = 0 → ∃ t, exec .ret s = .next t ∧ s.violated t .stackUnderflow)

/-- SYS, EXIT, LOW, HIGH (41_group0_system.md R505 to R508): SYS changes nothing; EXIT sets `ended` and puts PC back on its
own word; LOW and HIGH switch the resolution and mark the screen only where it changes. -/
def Obligations.SystemInstructions : Prop :=
  decodeWord 0x00FD = .ok .exitProgram ∧ decodeWord 0x00FE = .ok .low ∧ decodeWord 0x00FF = .ok .high ∧
  (∀ nnn : Addr12, nnn.toNat ∉ [0x0E0, 0x0FB, 0x0FC, 0x0EE, 0x0FD, 0x0FE, 0x0FF] →
    ¬(0x0C0 ≤ nnn.toNat ∧ nnn.toNat ≤ 0x0CF) → decodeWord (wordNnn 0x0 nnn) = .ok (.sys nnn)) ∧
  ∀ s : State,
    (∀ nnn, exec (.sys nnn) s = .next s) ∧
    (∃ t, exec .exitProgram s = .next t ∧ t.ended = true ∧ t.pc = s.pc - 2 ∧
      { t with ended := s.ended, pc := s.pc } = s ∧ s.sameBytes t) ∧
    (∃ t, exec .low s = .next t ∧ t.hiRes = false ∧ t.screenUpdated = (s.screenUpdated || s.hiRes) ∧
      { t with hiRes := s.hiRes, screenUpdated := s.screenUpdated } = s ∧ s.sameBytes t) ∧
    (∃ t, exec .high s = .next t ∧ t.hiRes = true ∧ t.screenUpdated = (s.screenUpdated || !s.hiRes) ∧
      { t with hiRes := s.hiRes, screenUpdated := s.screenUpdated } = s ∧ s.sameBytes t)

/-! ## Control flow -/

/-- JP nnn and JP V0, nnn (42_control_flow.md R600, R606): the target is nnn, or the whole nnn added to V0 under Chip8 and to
V[nnn[11:8]] under the S-CHIP platforms, not reduced to 12 bits; nothing else changes. -/
def Obligations.JumpTargets : Prop :=
  ∀ (nnn : Addr12) (s : State),
    decodeWord (wordNnn 0x1 nnn) = .ok (.jp nnn) ∧ decodeWord (wordNnn 0xB nnn) = .ok (.jpV0 nnn) ∧
    (∃ t, exec (.jp nnn) s = .next t ∧ t.pc.toNat = nnn.toNat ∧ s.sameButPc t) ∧
    (∃ t, exec (.jpV0 nnn) s = .next t ∧
      (s.platform = .chip8 → t.pc.toNat = s.v[0].toNat + nnn.toNat) ∧
      (s.platform ≠ .chip8 → ∀ x : VReg, x.val = nnn.toNat / 0x100 → t.pc.toNat = s.v[x].toNat + nnn.toNat) ∧
      s.sameButPc t)

/-- CALL nnn (42_control_flow.md R601, 10_state.md R109): SP rises by one, the new top slot holds PC, PC is nnn, nothing
else changes; with SP = 15 it is StackOverflow. How `violated` holds the response is the model's choice (log 2). -/
def Obligations.CallPushesReturnAddress : Prop :=
  ∀ (nnn : Addr12) (s : State),
    decodeWord (wordNnn 0x2 nnn) = .ok (.call nnn) ∧
    (s.sp.val < 15 → ∃ t, exec (.call nnn) s = .next t ∧ t.sp.val = s.sp.val + 1 ∧ t.stack[t.sp] = s.pc ∧
      (∀ k : Fin 16, k ≠ t.sp → t.stack[k] = s.stack[k]) ∧ t.pc.toNat = nnn.toNat ∧
      { t with pc := s.pc, sp := s.sp, stack := s.stack } = s ∧ s.sameBytes t) ∧
    (s.sp.val = 15 → ∃ t, exec (.call nnn) s = .next t ∧ s.violated t .stackOverflow)

/-- The stack holds 15 return addresses (10_state.md R111): a nest of calls completes exactly when it fits, and as many
returns then bring PC and SP back. -/
def Obligations.FifteenCallsNest : Prop :=
  ∀ (targets : List Addr12) (s : State), s.faulted = false →
    ((execAll (targets.map .call) s).isSome = true ↔ s.sp.val + targets.length ≤ 15) ∧
    (s.sp.val + targets.length ≤ 15 →
      ∃ t, execAll (targets.map .call ++ List.replicate targets.length .ret) s = some t ∧ t.pc = s.pc ∧ t.sp = s.sp ∧
        { t with stack := s.stack } = s)

/-- The four skips (42_control_flow.md R602 to R605): PC moves two more bytes exactly where the comparison holds; nothing else
changes. -/
def Obligations.SkipsFollowComparison : Prop :=
  ∀ (x y : VReg) (kk : Byte) (s : State),
    decodeWord (wordXKk 0x3 x kk) = .ok (.seImm x kk) ∧ decodeWord (wordXKk 0x4 x kk) = .ok (.sneImm x kk) ∧
    decodeWord (wordXYN 0x5 x y 0) = .ok (.seReg x y) ∧ decodeWord (wordXYN 0x9 x y 0) = .ok (.sneReg x y) ∧
    (∃ t, exec (.seImm x kk) s = .next t ∧ t.pc = (if s.v[x] = kk then s.pc + 2 else s.pc) ∧ s.sameButPc t) ∧
    (∃ t, exec (.sneImm x kk) s = .next t ∧ t.pc = (if s.v[x] = kk then s.pc else s.pc + 2) ∧ s.sameButPc t) ∧
    (∃ t, exec (.seReg x y) s = .next t ∧ t.pc = (if s.v[x] = s.v[y] then s.pc + 2 else s.pc) ∧ s.sameButPc t) ∧
    (∃ t, exec (.sneReg x y) s = .next t ∧ t.pc = (if s.v[x] = s.v[y] then s.pc else s.pc + 2) ∧ s.sameButPc t)

/-! ## Register and arithmetic instructions -/

/-- The forms that write V[x] and define no flag (43_alu.md R702 to R707): the value of each, every other register, VF among
them, and every other field unchanged. -/
def Obligations.PlainRegisterForms : Prop :=
  ∀ (x y : VReg) (kk : Byte) (s : State),
    (decodeWord (wordXKk 0x6 x kk) = .ok (.ldImm x kk) ∧ decodeWord (wordXKk 0x7 x kk) = .ok (.addImm x kk) ∧
      decodeWord (wordXYN 0x8 x y 0) = .ok (.ldReg x y) ∧ decodeWord (wordXYN 0x8 x y 1) = .ok (.orReg x y) ∧
      decodeWord (wordXYN 0x8 x y 2) = .ok (.andReg x y) ∧ decodeWord (wordXYN 0x8 x y 3) = .ok (.xorReg x y)) ∧
    (∃ t, exec (.ldImm x kk) s = .next t ∧ t.v[x] = kk ∧ s.sameButV t [x]) ∧
    (∃ t, exec (.addImm x kk) s = .next t ∧ t.v[x].toNat = (s.v[x].toNat + kk.toNat) % 256 ∧ s.sameButV t [x]) ∧
    (∃ t, exec (.ldReg x y) s = .next t ∧ t.v[x] = s.v[y] ∧ s.sameButV t [x]) ∧
    (∃ t, exec (.orReg x y) s = .next t ∧
      (∀ k, k < 8 → t.v[x].getLsbD k = (s.v[x].getLsbD k || s.v[y].getLsbD k)) ∧ s.sameButV t [x]) ∧
    (∃ t, exec (.andReg x y) s = .next t ∧
      (∀ k, k < 8 → t.v[x].getLsbD k = (s.v[x].getLsbD k && s.v[y].getLsbD k)) ∧ s.sameButV t [x]) ∧
    (∃ t, exec (.xorReg x y) s = .next t ∧
      (∀ k, k < 8 → t.v[x].getLsbD k = (s.v[x].getLsbD k != s.v[y].getLsbD k)) ∧ s.sameButV t [x])

/-- ADD Vx, Vy (43_alu.md R708, R701): VF is 1 when the 9-bit sum exceeds 255, also where x = 15 and the sum is lost; else
V[x] is the sum modulo 256; nothing else changes. -/
def Obligations.AddSetsCarry : Prop :=
  ∀ (x y : VReg) (s : State),
    decodeWord (wordXYN 0x8 x y 4) = .ok (.addReg x y) ∧
    ∃ t, exec (.addReg x y) s = .next t ∧
      t.v[15] = (if 255 < s.v[x].toNat + s.v[y].toNat then 1 else 0) ∧
      (x ≠ 15 → t.v[x].toNat = (s.v[x].toNat + s.v[y].toNat) % 256) ∧ s.sameButV t [x, 15]

/-- SUB and SUBN (43_alu.md R709, R711, R701): VF is 1 when the minuend is strictly larger; V[x] is the difference modulo
256, but where x = 15; nothing else changes. -/
def Obligations.SubtractionsSetNoBorrow : Prop :=
  ∀ (x y : VReg) (s : State),
    decodeWord (wordXYN 0x8 x y 5) = .ok (.subReg x y) ∧ decodeWord (wordXYN 0x8 x y 7) = .ok (.subnReg x y) ∧
    (∃ t, exec (.subReg x y) s = .next t ∧
      t.v[15] = (if s.v[y].toNat < s.v[x].toNat then 1 else 0) ∧
      (x ≠ 15 → t.v[x].toNat = (s.v[x].toNat + 256 - s.v[y].toNat) % 256) ∧ s.sameButV t [x, 15]) ∧
    (∃ t, exec (.subnReg x y) s = .next t ∧
      t.v[15] = (if s.v[x].toNat < s.v[y].toNat then 1 else 0) ∧
      (x ≠ 15 → t.v[x].toNat = (s.v[y].toNat + 256 - s.v[x].toNat) % 256) ∧ s.sameButV t [x, 15])

/-- SHR and SHL (43_alu.md R710, R712, R701): the source is V[y] under Chip8 and V[x] otherwise; VF is the bit shifted out,
V[x] the source halved or doubled modulo 256, but where x = 15; nothing else changes, V[y] among it. -/
def Obligations.ShiftsBySourceOfPlatform : Prop :=
  ∀ (x y : VReg) (s : State),
    let src := if s.platform = .chip8 then s.v[y].toNat else s.v[x].toNat
    decodeWord (wordXYN 0x8 x y 6) = .ok (.shrReg x y) ∧ decodeWord (wordXYN 0x8 x y 0xE) = .ok (.shlReg x y) ∧
    (∃ t, exec (.shrReg x y) s = .next t ∧ t.v[15].toNat = src % 2 ∧ (x ≠ 15 → t.v[x].toNat = src / 2) ∧
      s.sameButV t [x, 15]) ∧
    (∃ t, exec (.shlReg x y) s = .next t ∧ t.v[15].toNat = src / 128 ∧ (x ≠ 15 → t.v[x].toNat = 2 * src % 256) ∧
      s.sameButV t [x, 15])

/-! ## Index register, memory transfer, hp48 -/

/-- The four writes of I (44_index_memory.md R800 to R803): the value of each, not masked to a nibble for the fonts and
modulo 2^16 for the addition; no flag, nothing else changes. -/
def Obligations.IndexRegisterLoads : Prop :=
  ∀ (x : VReg) (nnn : Addr12) (s : State),
    (decodeWord (wordNnn 0xA nnn) = .ok (.ldI nnn) ∧ decodeWord (wordXKk 0xF x 0x1E) = .ok (.addI x) ∧
      decodeWord (wordXKk 0xF x 0x29) = .ok (.ldFont x) ∧ decodeWord (wordXKk 0xF x 0x30) = .ok (.ldHiFont x)) ∧
    (∃ t, exec (.ldI nnn) s = .next t ∧ t.i.toNat = nnn.toNat ∧ s.sameButI t) ∧
    (∃ t, exec (.addI x) s = .next t ∧ t.i.toNat = (s.i.toNat + s.v[x].toNat) % 65536 ∧ s.sameButI t) ∧
    (∃ t, exec (.ldFont x) s = .next t ∧ t.i.toNat = 0x50 + 5 * s.v[x].toNat ∧ s.sameButI t) ∧
    (∃ t, exec (.ldHiFont x) s = .next t ∧ t.i.toNat = 0xA0 + 10 * s.v[x].toNat ∧ s.sameButI t)

/-- LD B, Vx (44_index_memory.md R804): hundreds, tens and units of V[x] at I, I+1, I+2, every other byte and field
unchanged; MemOutOfRange where an address is 4096 or more, else FontWrite where a font byte is protected. How `violated`
holds the response is the model's choice (log 2). -/
def Obligations.BcdStoresDecimalDigits : Prop :=
  ∀ (x : VReg) (s : State),
    let a := s.i.toNat
    let font := s.params.fontWriteFaults = true ∧ ∃ k, k < 3 ∧ 0x50 ≤ a + k ∧ a + k < 0x140
    decodeWord (wordXKk 0xF x 0x33) = .ok (.ldBcd x) ∧
    (a + 2 < 4096 → ¬font → ∃ t, exec (.ldBcd x) s = .next t ∧
      (t.readByte a).toNat = s.v[x].toNat / 100 ∧ (t.readByte (a + 1)).toNat = s.v[x].toNat / 10 % 10 ∧
      (t.readByte (a + 2)).toNat = s.v[x].toNat % 10 ∧ s.sameBytesOutside t a 3 ∧ { t with memory := s.memory } = s) ∧
    (4096 ≤ a + 2 → ∃ t, exec (.ldBcd x) s = .next t ∧ s.violated t .memOutOfRange) ∧
    (a + 2 < 4096 → font → ∃ t, exec (.ldBcd x) s = .next t ∧ s.violated t .fontWrite)

/-- LD [I], Vx (44_index_memory.md R805, R806): V0 to Vx at I onward, every other byte unchanged, then I raised by x +
1, x or 0 as the platform says; nothing else changes; MemOutOfRange and FontWrite as for LD B. How `violated` holds the
response is the model's choice (log 2). -/
def Obligations.StoreRegistersToMemory : Prop :=
  ∀ (x : VReg) (s : State),
    let a := s.i.toNat
    let inc := if s.platform = .chip8 then x.val + 1 else if s.platform = .schip10 then x.val else 0
    let font := s.params.fontWriteFaults = true ∧ ∃ k, k ≤ x.val ∧ 0x50 ≤ a + k ∧ a + k < 0x140
    decodeWord (wordXKk 0xF x 0x55) = .ok (.storeRegs x) ∧
    (a + x.val < 4096 → ¬font → ∃ t, exec (.storeRegs x) s = .next t ∧
      (∀ k : VReg, k ≤ x → t.readByte (a + k.val) = s.v[k]) ∧ s.sameBytesOutside t a (x.val + 1) ∧
      t.i.toNat = (a + inc) % 65536 ∧ { t with memory := s.memory, i := s.i } = s) ∧
    (4096 ≤ a + x.val → ∃ t, exec (.storeRegs x) s = .next t ∧ s.violated t .memOutOfRange) ∧
    (a + x.val < 4096 → font → ∃ t, exec (.storeRegs x) s = .next t ∧ s.violated t .fontWrite)

/-- LD Vx, [I] (44_index_memory.md R805, R807): V0 to Vx from I onward, then I raised as the platform says; memory and
every other field unchanged; MemOutOfRange where an address is 4096 or more. How `violated` holds the response is the
model's choice (log 2). -/
def Obligations.LoadRegistersFromMemory : Prop :=
  ∀ (x : VReg) (s : State),
    let a := s.i.toNat
    let inc := if s.platform = .chip8 then x.val + 1 else if s.platform = .schip10 then x.val else 0
    decodeWord (wordXKk 0xF x 0x65) = .ok (.loadRegs x) ∧
    (a + x.val < 4096 → ∃ t, exec (.loadRegs x) s = .next t ∧
      (∀ k : VReg, k ≤ x → t.v[k] = s.readByte (a + k.val)) ∧ (∀ k : VReg, x < k → t.v[k] = s.v[k]) ∧
      t.i.toNat = (a + inc) % 65536 ∧ { t with v := s.v, i := s.i } = s ∧ s.sameBytes t) ∧
    (4096 ≤ a + x.val → ∃ t, exec (.loadRegs x) s = .next t ∧ s.violated t .memOutOfRange)

/-- What LD [I], Vx stored, LD Vx, [I] at the same I brings back, in any state with that memory, whatever its registers and
its platform (44_index_memory.md R806, R807: "inverse of Fx55"). -/
def Obligations.LoadRestoresStoredRegisters : Prop :=
  ∀ (x : VReg) (s t u : State), exec (.storeRegs x) s = .next t → t.faulted = false →
    u.memory = t.memory → u.params = t.params → u.i = s.i →
    ∃ w, exec (.loadRegs x) u = .next w ∧ (∀ k : VReg, k ≤ x → w.v[k] = s.v[k]) ∧ (∀ k : VReg, x < k → w.v[k] = u.v[k]) ∧
      w.faulted = u.faulted

/-- LD R, Vx and LD Vx, R (44_index_memory.md R808 to R810): V0 to Vx to and from the hp48 registers, nothing else
changed; x above 7 is Hp48Index. How `violated` holds the response is the model's choice (log 2). -/
def Obligations.Hp48SaveAndRestore : Prop :=
  ∀ (x : VReg) (s : State),
    decodeWord (wordXKk 0xF x 0x75) = .ok (.saveHp48 x) ∧ decodeWord (wordXKk 0xF x 0x85) = .ok (.loadHp48 x) ∧
    (x.val ≤ 7 →
      (∃ t, exec (.saveHp48 x) s = .next t ∧
        (∀ (k : Fin 8) (z : VReg), z.val = k.val → t.hp48[k] = if z ≤ x then s.v[z] else s.hp48[k]) ∧
        { t with hp48 := s.hp48 } = s ∧ s.sameBytes t) ∧
      (∃ t, exec (.loadHp48 x) s = .next t ∧
        (∀ (k : Fin 8) (z : VReg), z.val = k.val → z ≤ x → t.v[z] = s.hp48[k]) ∧
        (∀ z : VReg, x < z → t.v[z] = s.v[z]) ∧ { t with v := s.v } = s ∧ s.sameBytes t)) ∧
    (7 < x.val →
      (∃ t, exec (.saveHp48 x) s = .next t ∧ s.violated t .hp48Index) ∧
      (∃ t, exec (.loadHp48 x) s = .next t ∧ s.violated t .hp48Index))

/-! ## Framebuffer and drawing -/

/-- The layout of the screen and its primitives (45_framebuffer_draw.md R900 to R902): pixel (r, c) is bit 7 - (c mod 8) of
byte 16 r + c div 8, SetPix changes one pixel and no other, and the pixels are the whole screen. -/
def Obligations.ScreenLayoutAndSetPix : Prop :=
  (∀ (scr : Screen) (r c : Nat), r < 64 → c < 128 →
    scr.pix r c = (scr.byte (r * 16 + c / 8)).getLsbD (7 - c % 8)) ∧
  (∀ (scr : Screen) (r c r' c' : Nat) (b : Bool), r < 64 → c < 128 → r' < 64 → c' < 128 →
    (scr.setPix r c b).pix r' c' = if r' = r ∧ c' = c then b else scr.pix r' c') ∧
  (∀ scr₁ scr₂ : Screen, (∀ k, k < 1024 → scr₁.byte k = scr₂.byte k) → scr₁ = scr₂)

/-- DRW Vx, Vy, n with n ≥ 1 (45_framebuffer_draw.md R910): origin V[x] mod W, V[y] mod H; every physical pixel under a
lit bit of the unclipped rows is XORed and no other; VF is 1 exactly where a lit bit met a lit pixel; the screen is
marked; nothing else changes. MemOutOfRange where an unclipped row lies at 4096 or above. How `violated` holds the
response is the model's choice (log 2). -/
def Obligations.DrawXorsSpritePixels : Prop :=
  ∀ (x y n : Fin 16) (s : State), n.val ≠ 0 →
    let W := if s.hiRes then 128 else 64
    let H := if s.hiRes then 64 else 32
    let ox := s.v[x].toNat % W
    let oy := s.v[y].toNat % H
    let rows := min n.val (H - oy)
    let lit := s.spriteLit ox oy rows 8 fun k => (s.readByte (s.i.toNat + k)).toNat
    decodeWord (wordXYN 0xD x y n) = .ok (.drw x y n) ∧
    (s.i.toNat + rows ≤ 4096 → ∃ t, exec (.drw x y n) s = .next t ∧
      (∀ r c, r < 64 → c < 128 → t.screen.pix r c = (s.screen.pix r c != lit r c)) ∧
      (t.v[15] = 1 ∧ (∃ r c, r < 64 ∧ c < 128 ∧ lit r c = true ∧ s.screen.pix r c = true) ∨
        t.v[15] = 0 ∧ ∀ r c, r < 64 → c < 128 → lit r c = true → s.screen.pix r c = false) ∧
      t.screenUpdated = true ∧ s.sameButDrawing t) ∧
    (4096 < s.i.toNat + rows → ∃ t, exec (.drw x y n) s = .next t ∧ s.violated t .memOutOfRange)

/-- DRW Vx, Vy, 0 (45_framebuffer_draw.md R911, R912): in hi-res a sprite of 16 big-endian 16-bit rows, drawn as DRW Vx,
Vy, n draws; in low-res nothing is drawn and no memory is read, VF becomes 0 and the screen is marked. How `violated`
holds the response is the model's choice (log 2). -/
def Obligations.DrawZeroDrawsWideSprite : Prop :=
  ∀ (x y : VReg) (s : State),
    let ox := s.v[x].toNat % 128
    let oy := s.v[y].toNat % 64
    let rows := min 16 (64 - oy)
    let lit := s.spriteLit ox oy rows 16 fun k =>
      256 * (s.readByte (s.i.toNat + 2 * k)).toNat + (s.readByte (s.i.toNat + 2 * k + 1)).toNat
    decodeWord (wordXYN 0xD x y 0) = .ok (.drwZero x y) ∧
    (s.hiRes = true → s.i.toNat + 2 * rows ≤ 4096 → ∃ t, exec (.drwZero x y) s = .next t ∧
      (∀ r c, r < 64 → c < 128 → t.screen.pix r c = (s.screen.pix r c != lit r c)) ∧
      (t.v[15] = 1 ∧ (∃ r c, r < 64 ∧ c < 128 ∧ lit r c = true ∧ s.screen.pix r c = true) ∨
        t.v[15] = 0 ∧ ∀ r c, r < 64 → c < 128 → lit r c = true → s.screen.pix r c = false) ∧
      t.screenUpdated = true ∧ s.sameButDrawing t) ∧
    (s.hiRes = true → 4096 < s.i.toNat + 2 * rows →
      ∃ t, exec (.drwZero x y) s = .next t ∧ s.violated t .memOutOfRange) ∧
    (s.hiRes = false → ∃ t, exec (.drwZero x y) s = .next t ∧ t.screen = s.screen ∧ t.v[15] = 0 ∧
      t.screenUpdated = true ∧ s.sameButDrawing t)

/-- Drawing the same sprite twice at the same origin (VF, which a draw writes, may be one of the two coordinate registers)
restores the screen; on an empty background the first draw reports
VF = 0, and the second VF = 1 where the first lit a pixel (45_framebuffer_draw.md R913). -/
def Obligations.DrawingTwiceErases : Prop :=
  ∀ (i : Instr) (x y n : Fin 16) (s t : State), (i = .drw x y n ∨ i = .drwZero x y) →
    exec i s = .next t → t.faulted = false → t.v[x] = s.v[x] → t.v[y] = s.v[y] →
    ∃ u, exec i t = .next u ∧ u.faulted = false ∧ u.screen = s.screen ∧
      ((∀ r c, r < 64 → c < 128 → s.screen.pix r c = false) →
        t.v[15] = 0 ∧ (t.screen ≠ s.screen → u.v[15] = 1))

/-! ## Keys and timers -/

/-- SKP and SKNP (46_keys_timers.md R1000 to R1002): PC moves two more bytes exactly where the latch of key V[x] is set,
or is not; V[x] above 15 is KeyIndex; nothing else changes. How `violated` holds the response is the model's choice (log
2). -/
def Obligations.KeySkipsFollowLatch : Prop :=
  ∀ (x : VReg) (s : State),
    decodeWord (wordXKk 0xE x 0x9E) = .ok (.skp x) ∧ decodeWord (wordXKk 0xE x 0xA1) = .ok (.sknp x) ∧
    (∀ k : Fin 16, s.v[x].toNat = k.val →
      (∃ t, exec (.skp x) s = .next t ∧ t.pc = (if s.keypad[k] then s.pc + 2 else s.pc) ∧ s.sameButPc t) ∧
      (∃ t, exec (.sknp x) s = .next t ∧ t.pc = (if s.keypad[k] then s.pc else s.pc + 2) ∧ s.sameButPc t)) ∧
    (15 < s.v[x].toNat →
      (∃ t, exec (.skp x) s = .next t ∧ s.violated t .keyIndex) ∧
      (∃ t, exec (.sknp x) s = .next t ∧ s.violated t .keyIndex))

/-- The timer transfers (46_keys_timers.md R1003 to R1005): the copied value, and nothing else changed. -/
def Obligations.TimerTransfers : Prop :=
  ∀ (x : VReg) (s : State),
    (decodeWord (wordXKk 0xF x 0x07) = .ok (.ldVxDt x) ∧ decodeWord (wordXKk 0xF x 0x15) = .ok (.ldDtVx x) ∧
      decodeWord (wordXKk 0xF x 0x18) = .ok (.ldStVx x)) ∧
    (∃ t, exec (.ldVxDt x) s = .next t ∧ t.v[x] = s.dt ∧ s.sameButV t [x]) ∧
    (∃ t, exec (.ldDtVx x) s = .next t ∧ t.dt = s.v[x] ∧ { t with dt := s.dt } = s ∧ s.sameBytes t) ∧
    (∃ t, exec (.ldStVx x) s = .next t ∧ t.st = s.v[x] ∧ { t with st := s.st } = s ∧ s.sameBytes t)

/-- LD Vx, K (46_keys_timers.md R1006 to R1008), the six rows of the transition table and the KeyIndex of RecordedKey:
what waitForKey, PC and V[x] become, and that nothing else changes. F of the table is s.pc - 2. How `violated` holds the
response is the model's choice (log 2). -/
def Obligations.KeyWaitTransitions : Prop :=
  ∀ (x : VReg) (s : State),
    let down := ∃ k : Fin 16, s.keypad[k] = true
    let held := (s.params.releaseCheck = .anyKey ∧ down) ∨
      (s.params.releaseCheck = .recordedKey ∧ ∃ k : Fin 16, s.v[x].toNat = k.val ∧ s.keypad[k] = true)
    let outOfRange := s.params.releaseCheck = .recordedKey ∧ 15 < s.v[x].toNat
    let goes := fun (pc : Word) (w : KeyWait) (vx : Byte) => ∃ t, exec (.ldVxKey x) s = .next t ∧ t.pc = pc ∧
      t.waitForKey = w ∧ t.v[x] = vx ∧ (∀ z : VReg, z ≠ x → t.v[z] = s.v[z]) ∧
      { t with pc := s.pc, waitForKey := s.waitForKey, v := s.v } = s ∧ s.sameBytes t
    decodeWord (wordXKk 0xF x 0x0A) = .ok (.ldVxKey x) ∧
    (s.waitForKey = .idle → ¬down → goes (s.pc - 2) .idle s.v[x]) ∧
    (s.waitForKey = .idle → down → goes (s.pc - 2) .armedAwaitingPress s.v[x]) ∧
    (s.waitForKey = .armedAwaitingPress → ¬down → goes (s.pc - 2) .armedAwaitingPress s.v[x]) ∧
    (s.waitForKey = .armedAwaitingPress → ∀ k : Fin 16, s.keypad[k] = true → (∀ j : Fin 16, j < k → s.keypad[j] = false) →
      goes (s.pc - 2) .awaitingRelease (BitVec.ofNat 8 k.val)) ∧
    (s.waitForKey = .awaitingRelease → held → goes (s.pc - 2) .awaitingRelease s.v[x]) ∧
    (s.waitForKey = .awaitingRelease → ¬held → ¬outOfRange → goes s.pc .idle s.v[x]) ∧
    (s.waitForKey = .awaitingRelease → outOfRange → ∃ t, exec (.ldVxKey x) s = .next t ∧ s.violated t .keyIndex)

/-! ## Random -/

/-- RND Vx, kk (47_random.md R1100, R1102): rng becomes rng * C + 1 modulo 2^64, and V[x] the top byte of the new rng masked by
kk, bit by bit; nothing else changes. -/
def Obligations.RandomByteIsMaskedTopByte : Prop :=
  ∀ (x : VReg) (kk : Byte) (s : State),
    decodeWord (wordXKk 0xC x kk) = .ok (.rnd x kk) ∧
    ∃ t, exec (.rnd x kk) s = .next t ∧
      t.rng.toNat = (s.rng.toNat * s.params.rngMultiplier.toNat + 1) % 2 ^ 64 ∧
      (∀ k, k < 8 → t.v[x].getLsbD k = ((t.rng.toNat / 2 ^ 56).testBit k && kk.getLsbD k)) ∧
      (∀ z : VReg, z ≠ x → t.v[z] = s.v[z]) ∧ { t with v := s.v, rng := s.rng } = s ∧ s.sameBytes t

/-- The byte sequence depends on nothing but the generator's state and multiplier (47_random.md R1103): any two cores that
agree on these two draw the same bytes by the same instructions, for as long as they draw. -/
def Obligations.RandomSequenceIsDetermined : Prop :=
  ∀ (draws : List (VReg × Byte)) (x : VReg) (kk : Byte) (s₁ s₂ : State), s₁.rng = s₂.rng →
    s₁.params.rngMultiplier = s₂.params.rngMultiplier → s₁.faulted = false → s₂.faulted = false →
    ∃ t₁ t₂, execAll (draws.map (fun d => .rnd d.1 d.2) ++ [.rnd x kk]) s₁ = some t₁ ∧
      execAll (draws.map (fun d => .rnd d.1 d.2) ++ [.rnd x kk]) s₂ = some t₂ ∧ t₁.rng = t₂.rng ∧ t₁.v[x] = t₂.v[x]

/-! ## The whole machine -/

/-- `platform` is read by 8xy6, 8xyE, Bnnn, Fx55 and Fx65 and by nothing else (10_state.md R124): every other instruction has
the same effect under every platform. -/
def Obligations.PlatformReadByFiveInstructions : Prop :=
  ∀ (i : Instr) (s t : State) (p : Platform),
    (∀ x y, i ≠ .shrReg x y ∧ i ≠ .shlReg x y) → (∀ nnn, i ≠ .jpV0 nnn) → (∀ x, i ≠ .storeRegs x ∧ i ≠ .loadRegs x) →
    exec i s = .next t → exec i { s with platform := p } = .next { t with platform := p }

/-- The "written by" column of 10_state.md R128, for the instructions: a field that an instruction has changed names that
instruction as a writer. (PC is written by every instruction; `opcode` by the fetch alone.) -/
def Obligations.OnlyListedInstructionsWrite : Prop :=
  ∀ (i : Instr) (s t : State), exec i s = .next t →
    (t.memory = s.memory ∨ (∃ x, i = .ldBcd x ∨ i = .storeRegs x)) ∧
    (t.i = s.i ∨ (∃ nnn, i = .ldI nnn) ∨
      ∃ x, i = .addI x ∨ i = .ldFont x ∨ i = .ldHiFont x ∨ i = .storeRegs x ∨ i = .loadRegs x) ∧
    ((t.stack = s.stack ∧ t.sp = s.sp) ∨ i = .ret ∨ ∃ nnn, i = .call nnn) ∧
    (t.hp48 = s.hp48 ∨ ∃ x, i = .saveHp48 x) ∧ (t.dt = s.dt ∨ ∃ x, i = .ldDtVx x) ∧ (t.st = s.st ∨ ∃ x, i = .ldStVx x) ∧
    (t.screen = s.screen ∨ i ∈ [.cls, .scr, .scl] ∨ (∃ n, i = .scd n) ∨ ∃ x y, i = .drwZero x y ∨ ∃ n, i = .drw x y n) ∧
    (t.hiRes = s.hiRes ∨ i ∈ [.low, .high]) ∧
    (t.screenUpdated = s.screenUpdated ∨ i ∈ [.cls, .scr, .scl, .low, .high] ∨ (∃ n, i = .scd n) ∨
      ∃ x y, i = .drwZero x y ∨ ∃ n, i = .drw x y n) ∧
    (t.ended = s.ended ∨ i = .exitProgram) ∧ (t.waitForKey = s.waitForKey ∨ ∃ x, i = .ldVxKey x) ∧
    (t.rng = s.rng ∨ ∃ x kk, i = .rnd x kk) ∧
    (∀ z : VReg, t.v[z] = s.v[z] ∨
      (∃ kk, i = .ldImm z kk ∨ i = .addImm z kk ∨ i = .rnd z kk) ∨
      (∃ y, i = .ldReg z y ∨ i = .orReg z y ∨ i = .andReg z y ∨ i = .xorReg z y) ∨
      (∃ x y, (z = x ∨ z = 15) ∧
        (i = .addReg x y ∨ i = .subReg x y ∨ i = .shrReg x y ∨ i = .subnReg x y ∨ i = .shlReg x y)) ∨
      (i = .ldVxDt z ∨ i = .ldVxKey z) ∨ (∃ x, z ≤ x ∧ (i = .loadRegs x ∨ i = .loadHp48 x)) ∨
      (z = 15 ∧ ∃ x y, i = .drwZero x y ∨ ∃ n, i = .drw x y n)) ∧
    t.keypad = s.keypad ∧ t.opcode = s.opcode ∧ t.ipf = s.ipf ∧ t.platform = s.platform ∧
    t.initialized = s.initialized ∧ t.params = s.params
end

