-- ==== Sys2Proof/Laws/Decode.lean ====
section
/-! SUPPORT. The fields of a packed word, a word rebuilt from its fields, and words as numbers (30_encoding.md R301). -/

namespace Sys2Proof

/-! ### Words as numbers -/

theorem packXKk_toNat (hi : BitVec 4) (x : VReg) (kk : Byte) :
    (packXKk hi x kk).toNat = 0x1000 * hi.toNat + 0x100 * x.val + kk.toNat := by
  have h1 : hi.toNat < 16 := hi.isLt
  have h2 : x.val < 16 := x.isLt
  have h3 : kk.toNat < 256 := kk.isLt
  have hx : (BitVec.ofFin (w := 4) x).toNat = x.val := rfl
  rw [packXKk, BitVec.toNat_append, BitVec.toNat_append, hx,
    ← Nat.shiftLeft_add_eq_or_of_lt (by omega), ← Nat.shiftLeft_add_eq_or_of_lt (by omega), Nat.shiftLeft_eq,
    Nat.shiftLeft_eq]
  omega

theorem packXYN_toNat (hi : BitVec 4) (x y n : Fin 16) :
    (packXYN hi x y n).toNat = 0x1000 * hi.toNat + 0x100 * x.val + 0x10 * y.val + n.val := by
  have h1 : hi.toNat < 16 := hi.isLt
  have h2 : x.val < 16 := x.isLt
  have h3 : y.val < 16 := y.isLt
  have h4 : n.val < 16 := n.isLt
  have nibble (z : Fin 16) : (BitVec.ofFin (w := 4) z).toNat = z.val := rfl
  rw [packXYN, BitVec.toNat_append, BitVec.toNat_append, BitVec.toNat_append, nibble x, nibble y, nibble n,
    ← Nat.shiftLeft_add_eq_or_of_lt (by omega), ← Nat.shiftLeft_add_eq_or_of_lt (by omega),
    ← Nat.shiftLeft_add_eq_or_of_lt (by omega), Nat.shiftLeft_eq, Nat.shiftLeft_eq, Nat.shiftLeft_eq]
  omega

theorem packNnn_toNat (hi : BitVec 4) (nnn : Addr12) :
    (packNnn hi nnn).toNat = 0x1000 * hi.toNat + nnn.toNat := by
  have h1 : hi.toNat < 16 := hi.isLt
  have h2 : nnn.toNat < 4096 := nnn.isLt
  rw [packNnn, BitVec.toNat_append, ← Nat.shiftLeft_add_eq_or_of_lt (by omega), Nat.shiftLeft_eq]
  omega

/-! ### Fields as numbers -/

theorem opHi_eq (op : Word) : opHi op = op.toNat / 0x1000 := by
  have : op.toNat < 65536 := op.isLt
  rw [opHi, BitVec.extractLsb'_toNat, Nat.shiftRight_eq_div_pow]
  omega

theorem opX_val (op : Word) : (opX op).val = op.toNat / 0x100 % 16 := by
  show (op.extractLsb' 8 4).toNat = _
  rw [BitVec.extractLsb'_toNat, Nat.shiftRight_eq_div_pow]

theorem opY_val (op : Word) : (opY op).val = op.toNat / 0x10 % 16 := by
  show (op.extractLsb' 4 4).toNat = _
  rw [BitVec.extractLsb'_toNat, Nat.shiftRight_eq_div_pow]

theorem opN_val (op : Word) : (opN op).val = op.toNat % 16 := by
  show (op.extractLsb' 0 4).toNat = _
  rw [BitVec.extractLsb'_toNat, Nat.shiftRight_zero]

theorem opKk_toNat (op : Word) : (opKk op).toNat = op.toNat % 256 := by
  rw [opKk, BitVec.extractLsb'_toNat, Nat.shiftRight_zero]

theorem opNnn_toNat (op : Word) : (opNnn op).toNat = op.toNat % 4096 := by
  rw [opNnn, BitVec.extractLsb'_toNat, Nat.shiftRight_zero]

/-- The group-0 scroll word is told by its twelve high bits. -/
theorem highTwelve_toNat (op : Word) : (op.extractLsb' 4 12).toNat = op.toNat / 16 := by
  have : op.toNat < 65536 := op.isLt
  rw [BitVec.extractLsb'_toNat, Nat.shiftRight_eq_div_pow]
  omega

/-! ### Fields of packed words -/

section fields
variable (hi : BitVec 4) (x y n : Fin 16) (kk : Byte) (nnn : Addr12)

@[simp] theorem opHi_packXKk : opHi (packXKk hi x kk) = hi.toNat := by
  have := x.isLt; have := kk.isLt
  rw [opHi_eq, packXKk_toNat]; omega

@[simp] theorem opX_packXKk : opX (packXKk hi x kk) = x := by
  have := x.isLt; have := kk.isLt
  apply Fin.ext; rw [opX_val, packXKk_toNat]; omega

@[simp] theorem opKk_packXKk : opKk (packXKk hi x kk) = kk := by
  have := kk.isLt
  apply BitVec.eq_of_toNat_eq; rw [opKk_toNat, packXKk_toNat]; omega

@[simp] theorem opHi_packXYN : opHi (packXYN hi x y n) = hi.toNat := by
  have := x.isLt; have := y.isLt; have := n.isLt
  rw [opHi_eq, packXYN_toNat]; omega

@[simp] theorem opX_packXYN : opX (packXYN hi x y n) = x := by
  have := x.isLt; have := y.isLt; have := n.isLt
  apply Fin.ext; rw [opX_val, packXYN_toNat]; omega

@[simp] theorem opY_packXYN : opY (packXYN hi x y n) = y := by
  have := y.isLt; have := n.isLt
  apply Fin.ext; rw [opY_val, packXYN_toNat]; omega

@[simp] theorem opN_packXYN : opN (packXYN hi x y n) = n := by
  have := n.isLt
  apply Fin.ext; rw [opN_val, packXYN_toNat]; omega

@[simp] theorem opHi_packNnn : opHi (packNnn hi nnn) = hi.toNat := by
  have := nnn.isLt
  rw [opHi_eq, packNnn_toNat]; omega

@[simp] theorem opNnn_packNnn : opNnn (packNnn hi nnn) = nnn := by
  have := nnn.isLt
  apply BitVec.eq_of_toNat_eq; rw [opNnn_toNat, packNnn_toNat]; omega

end fields

/-! ### A word rebuilt from its fields -/

theorem packXKk_fields (op : Word) : packXKk (BitVec.ofNat 4 (opHi op)) (opX op) (opKk op) = op := by
  have := op.isLt
  apply BitVec.eq_of_toNat_eq
  rw [packXKk_toNat, BitVec.toNat_ofNat, opHi_eq, opX_val, opKk_toNat]; omega

theorem packXYN_fields (op : Word) : packXYN (BitVec.ofNat 4 (opHi op)) (opX op) (opY op) (opN op) = op := by
  have := op.isLt
  apply BitVec.eq_of_toNat_eq
  rw [packXYN_toNat, BitVec.toNat_ofNat, opHi_eq, opX_val, opY_val, opN_val]; omega

theorem packNnn_fields (op : Word) : packNnn (BitVec.ofNat 4 (opHi op)) (opNnn op) = op := by
  have := op.isLt
  apply BitVec.eq_of_toNat_eq
  rw [packNnn_toNat, BitVec.toNat_ofNat, opHi_eq, opNnn_toNat]; omega

/-! ### Bytes -/

@[simp] theorem bigEndian_bytes (w : Word) : bigEndian (highByte w) (lowByte w) = w := by
  apply BitVec.eq_of_getLsbD_eq
  intro k hk
  rw [bigEndian, BitVec.getLsbD_append, highByte, lowByte, BitVec.getLsbD_extractLsb', BitVec.getLsbD_extractLsb']
  by_cases h : k < 8
  · simp [h]
  · have h1 : k - 8 < 8 := by omega
    have h2 : 8 + (k - 8) = k := by omega
    simp [h, h1, h2]

@[simp] theorem highByte_bigEndian (a b : Byte) : highByte (bigEndian a b) = a := by
  apply BitVec.eq_of_getLsbD_eq
  intro k hk
  rw [highByte, bigEndian, BitVec.getLsbD_extractLsb', BitVec.getLsbD_append]
  simp [hk]

@[simp] theorem lowByte_bigEndian (a b : Byte) : lowByte (bigEndian a b) = b := by
  apply BitVec.eq_of_getLsbD_eq
  intro k hk
  rw [lowByte, bigEndian, BitVec.getLsbD_extractLsb', BitVec.getLsbD_append]
  simp [hk]

/-! ### Decoding -/

theorem decodeWord_of_decodeOp {op : Word} {i : Instr} (h : decodeOp op = some i) : decodeWord op = .ok i := by
  rw [decodeWord, h]

/-- An unknown word is named by the error. -/
theorem decodeWord_error {op : Word} {e : DecodeError} (h : decodeWord op = .error e) :
    e = .unknownOpcode op ∧ decodeOp op = none := by
  unfold decodeWord at h
  split at h
  · cases h
  · next hn => exact ⟨(Except.error.inj h).symm, hn⟩

theorem decodeWord_ok {op : Word} {i : Instr} (h : decodeWord op = .ok i) : decodeOp op = some i := by
  unfold decodeWord at h
  split at h
  · next hs => rw [hs, Except.ok.inj h]
  · cases h

/-- Decoding the two bytes of a word is decoding the word. -/
theorem decode_bytes (op : Word) (rest : List Byte) :
    decode (highByte op :: lowByte op :: rest) = (decodeWord op).map fun i => (i, rest) := by
  rw [decode, bigEndian_bytes]

theorem decodeTableWord_eq (nbits w : Nat) : decodeTableWord nbits w = decodeOp (tableWord nbits w) := by
  rw [decodeTableWord, decode_bytes, decodeWord]
  cases decodeOp (tableWord nbits w) <;> rfl

end Sys2Proof
end

