-- ==== Sys2Proof/Laws/State.lean ====
section
/-! SUPPORT. The small lemmas of the operations that update State: what each field reads after each operation, so that no
later proof unfolds an update; and everything a checked instruction can answer. -/

namespace Sys2Proof.Machine

open Sys2Proof

/-! ### One lemma per field and operation -/

section fields
variable (s : State) (k : Violation) (op at_ w : Word) (x : VReg) (b : Byte) (f : Bool) (a n : Nat) (bs : List Byte)
  (scr : Screen) (drawn : Screen × Bool) (bytes : VReg → Byte) (kw : KeyWait)

@[simp] theorem raise_memory : (raise k s).memory = s.memory := rfl
@[simp] theorem raise_v : (raise k s).v = s.v := rfl
@[simp] theorem raise_i : (raise k s).i = s.i := rfl
@[simp] theorem raise_pc : (raise k s).pc = s.pc := rfl
@[simp] theorem raise_stack : (raise k s).stack = s.stack := rfl
@[simp] theorem raise_sp : (raise k s).sp = s.sp := rfl
@[simp] theorem raise_hp48 : (raise k s).hp48 = s.hp48 := rfl
@[simp] theorem raise_dt : (raise k s).dt = s.dt := rfl
@[simp] theorem raise_st : (raise k s).st = s.st := rfl
@[simp] theorem raise_keypad : (raise k s).keypad = s.keypad := rfl
@[simp] theorem raise_screen : (raise k s).screen = s.screen := rfl
@[simp] theorem raise_hiRes : (raise k s).hiRes = s.hiRes := rfl
@[simp] theorem raise_screenUpdated : (raise k s).screenUpdated = s.screenUpdated := rfl
@[simp] theorem raise_ended : (raise k s).ended = s.ended := rfl
@[simp] theorem raise_waitForKey : (raise k s).waitForKey = s.waitForKey := rfl
@[simp] theorem raise_opcode : (raise k s).opcode = s.opcode := rfl
@[simp] theorem raise_rng : (raise k s).rng = s.rng := rfl
@[simp] theorem raise_ipf : (raise k s).ipf = s.ipf := rfl
@[simp] theorem raise_platform : (raise k s).platform = s.platform := rfl
@[simp] theorem raise_faulted : (raise k s).faulted = true := rfl
@[simp] theorem raise_initialized : (raise k s).initialized = s.initialized := rfl
@[simp] theorem raise_params : (raise k s).params = s.params := rfl
@[simp] theorem raise_raised : (raise k s).raised = some (.contractViolation k) := rfl
/-- Nothing else changes. -/
theorem raise_rest : { raise k s with faulted := s.faulted, raised := s.raised } = s := rfl

@[simp] theorem raiseUnknown_memory : (raiseUnknown op at_ s).memory = s.memory := rfl
@[simp] theorem raiseUnknown_v : (raiseUnknown op at_ s).v = s.v := rfl
@[simp] theorem raiseUnknown_i : (raiseUnknown op at_ s).i = s.i := rfl
@[simp] theorem raiseUnknown_pc : (raiseUnknown op at_ s).pc = s.pc := rfl
@[simp] theorem raiseUnknown_stack : (raiseUnknown op at_ s).stack = s.stack := rfl
@[simp] theorem raiseUnknown_sp : (raiseUnknown op at_ s).sp = s.sp := rfl
@[simp] theorem raiseUnknown_hp48 : (raiseUnknown op at_ s).hp48 = s.hp48 := rfl
@[simp] theorem raiseUnknown_dt : (raiseUnknown op at_ s).dt = s.dt := rfl
@[simp] theorem raiseUnknown_st : (raiseUnknown op at_ s).st = s.st := rfl
@[simp] theorem raiseUnknown_keypad : (raiseUnknown op at_ s).keypad = s.keypad := rfl
@[simp] theorem raiseUnknown_screen : (raiseUnknown op at_ s).screen = s.screen := rfl
@[simp] theorem raiseUnknown_hiRes : (raiseUnknown op at_ s).hiRes = s.hiRes := rfl
@[simp] theorem raiseUnknown_screenUpdated : (raiseUnknown op at_ s).screenUpdated = s.screenUpdated := rfl
@[simp] theorem raiseUnknown_ended : (raiseUnknown op at_ s).ended = s.ended := rfl
@[simp] theorem raiseUnknown_waitForKey : (raiseUnknown op at_ s).waitForKey = s.waitForKey := rfl
@[simp] theorem raiseUnknown_opcode : (raiseUnknown op at_ s).opcode = s.opcode := rfl
@[simp] theorem raiseUnknown_rng : (raiseUnknown op at_ s).rng = s.rng := rfl
@[simp] theorem raiseUnknown_ipf : (raiseUnknown op at_ s).ipf = s.ipf := rfl
@[simp] theorem raiseUnknown_platform : (raiseUnknown op at_ s).platform = s.platform := rfl
@[simp] theorem raiseUnknown_faulted : (raiseUnknown op at_ s).faulted = s.faulted := rfl
@[simp] theorem raiseUnknown_initialized : (raiseUnknown op at_ s).initialized = s.initialized := rfl
@[simp] theorem raiseUnknown_params : (raiseUnknown op at_ s).params = s.params := rfl
@[simp] theorem raiseUnknown_raised : (raiseUnknown op at_ s).raised = some (.unknownOpcode op at_) := rfl
/-- Nothing else changes. -/
theorem raiseUnknown_rest : { raiseUnknown op at_ s with raised := s.raised } = s := rfl

@[simp] theorem resume_memory : (resume s).memory = s.memory := rfl
@[simp] theorem resume_v : (resume s).v = s.v := rfl
@[simp] theorem resume_i : (resume s).i = s.i := rfl
@[simp] theorem resume_pc : (resume s).pc = s.pc := rfl
@[simp] theorem resume_stack : (resume s).stack = s.stack := rfl
@[simp] theorem resume_sp : (resume s).sp = s.sp := rfl
@[simp] theorem resume_hp48 : (resume s).hp48 = s.hp48 := rfl
@[simp] theorem resume_dt : (resume s).dt = s.dt := rfl
@[simp] theorem resume_st : (resume s).st = s.st := rfl
@[simp] theorem resume_keypad : (resume s).keypad = s.keypad := rfl
@[simp] theorem resume_screen : (resume s).screen = s.screen := rfl
@[simp] theorem resume_hiRes : (resume s).hiRes = s.hiRes := rfl
@[simp] theorem resume_screenUpdated : (resume s).screenUpdated = s.screenUpdated := rfl
@[simp] theorem resume_ended : (resume s).ended = s.ended := rfl
@[simp] theorem resume_waitForKey : (resume s).waitForKey = s.waitForKey := rfl
@[simp] theorem resume_opcode : (resume s).opcode = s.opcode := rfl
@[simp] theorem resume_rng : (resume s).rng = s.rng := rfl
@[simp] theorem resume_ipf : (resume s).ipf = s.ipf := rfl
@[simp] theorem resume_platform : (resume s).platform = s.platform := rfl
@[simp] theorem resume_faulted : (resume s).faulted = s.faulted := rfl
@[simp] theorem resume_initialized : (resume s).initialized = s.initialized := rfl
@[simp] theorem resume_params : (resume s).params = s.params := rfl
@[simp] theorem resume_raised : (resume s).raised = none := rfl
/-- Nothing else changes. -/
theorem resume_rest : { resume s with raised := s.raised } = s := rfl

@[simp] theorem afterFetch_memory : (s.afterFetch op).memory = s.memory := rfl
@[simp] theorem afterFetch_v : (s.afterFetch op).v = s.v := rfl
@[simp] theorem afterFetch_i : (s.afterFetch op).i = s.i := rfl
@[simp] theorem afterFetch_pc : (s.afterFetch op).pc = s.pc + 2 := rfl
@[simp] theorem afterFetch_stack : (s.afterFetch op).stack = s.stack := rfl
@[simp] theorem afterFetch_sp : (s.afterFetch op).sp = s.sp := rfl
@[simp] theorem afterFetch_hp48 : (s.afterFetch op).hp48 = s.hp48 := rfl
@[simp] theorem afterFetch_dt : (s.afterFetch op).dt = s.dt := rfl
@[simp] theorem afterFetch_st : (s.afterFetch op).st = s.st := rfl
@[simp] theorem afterFetch_keypad : (s.afterFetch op).keypad = s.keypad := rfl
@[simp] theorem afterFetch_screen : (s.afterFetch op).screen = s.screen := rfl
@[simp] theorem afterFetch_hiRes : (s.afterFetch op).hiRes = s.hiRes := rfl
@[simp] theorem afterFetch_screenUpdated : (s.afterFetch op).screenUpdated = s.screenUpdated := rfl
@[simp] theorem afterFetch_ended : (s.afterFetch op).ended = s.ended := rfl
@[simp] theorem afterFetch_waitForKey : (s.afterFetch op).waitForKey = s.waitForKey := rfl
@[simp] theorem afterFetch_opcode : (s.afterFetch op).opcode = op := rfl
@[simp] theorem afterFetch_rng : (s.afterFetch op).rng = s.rng := rfl
@[simp] theorem afterFetch_ipf : (s.afterFetch op).ipf = s.ipf := rfl
@[simp] theorem afterFetch_platform : (s.afterFetch op).platform = s.platform := rfl
@[simp] theorem afterFetch_faulted : (s.afterFetch op).faulted = s.faulted := rfl
@[simp] theorem afterFetch_initialized : (s.afterFetch op).initialized = s.initialized := rfl
@[simp] theorem afterFetch_params : (s.afterFetch op).params = s.params := rfl
@[simp] theorem afterFetch_raised : (s.afterFetch op).raised = none := rfl
/-- Nothing else changes. -/
theorem afterFetch_rest : { s.afterFetch op with pc := s.pc, opcode := s.opcode, raised := s.raised } = s := rfl

@[simp] theorem writeV_memory : (s.writeV x b).memory = s.memory := rfl
theorem writeV_v : (s.writeV x b).v = s.v.set x b := rfl
@[simp] theorem writeV_i : (s.writeV x b).i = s.i := rfl
@[simp] theorem writeV_pc : (s.writeV x b).pc = s.pc := rfl
@[simp] theorem writeV_stack : (s.writeV x b).stack = s.stack := rfl
@[simp] theorem writeV_sp : (s.writeV x b).sp = s.sp := rfl
@[simp] theorem writeV_hp48 : (s.writeV x b).hp48 = s.hp48 := rfl
@[simp] theorem writeV_dt : (s.writeV x b).dt = s.dt := rfl
@[simp] theorem writeV_st : (s.writeV x b).st = s.st := rfl
@[simp] theorem writeV_keypad : (s.writeV x b).keypad = s.keypad := rfl
@[simp] theorem writeV_screen : (s.writeV x b).screen = s.screen := rfl
@[simp] theorem writeV_hiRes : (s.writeV x b).hiRes = s.hiRes := rfl
@[simp] theorem writeV_screenUpdated : (s.writeV x b).screenUpdated = s.screenUpdated := rfl
@[simp] theorem writeV_ended : (s.writeV x b).ended = s.ended := rfl
@[simp] theorem writeV_waitForKey : (s.writeV x b).waitForKey = s.waitForKey := rfl
@[simp] theorem writeV_opcode : (s.writeV x b).opcode = s.opcode := rfl
@[simp] theorem writeV_rng : (s.writeV x b).rng = s.rng := rfl
@[simp] theorem writeV_ipf : (s.writeV x b).ipf = s.ipf := rfl
@[simp] theorem writeV_platform : (s.writeV x b).platform = s.platform := rfl
@[simp] theorem writeV_faulted : (s.writeV x b).faulted = s.faulted := rfl
@[simp] theorem writeV_initialized : (s.writeV x b).initialized = s.initialized := rfl
@[simp] theorem writeV_params : (s.writeV x b).params = s.params := rfl
@[simp] theorem writeV_raised : (s.writeV x b).raised = s.raised := rfl
/-- Nothing else changes. -/
theorem writeV_rest : { s.writeV x b with v := s.v } = s := rfl

@[simp] theorem writeFlag_memory : (s.writeFlag f).memory = s.memory := rfl
@[simp] theorem writeFlag_i : (s.writeFlag f).i = s.i := rfl
@[simp] theorem writeFlag_pc : (s.writeFlag f).pc = s.pc := rfl
@[simp] theorem writeFlag_stack : (s.writeFlag f).stack = s.stack := rfl
@[simp] theorem writeFlag_sp : (s.writeFlag f).sp = s.sp := rfl
@[simp] theorem writeFlag_hp48 : (s.writeFlag f).hp48 = s.hp48 := rfl
@[simp] theorem writeFlag_dt : (s.writeFlag f).dt = s.dt := rfl
@[simp] theorem writeFlag_st : (s.writeFlag f).st = s.st := rfl
@[simp] theorem writeFlag_keypad : (s.writeFlag f).keypad = s.keypad := rfl
@[simp] theorem writeFlag_screen : (s.writeFlag f).screen = s.screen := rfl
@[simp] theorem writeFlag_hiRes : (s.writeFlag f).hiRes = s.hiRes := rfl
@[simp] theorem writeFlag_screenUpdated : (s.writeFlag f).screenUpdated = s.screenUpdated := rfl
@[simp] theorem writeFlag_ended : (s.writeFlag f).ended = s.ended := rfl
@[simp] theorem writeFlag_waitForKey : (s.writeFlag f).waitForKey = s.waitForKey := rfl
@[simp] theorem writeFlag_opcode : (s.writeFlag f).opcode = s.opcode := rfl
@[simp] theorem writeFlag_rng : (s.writeFlag f).rng = s.rng := rfl
@[simp] theorem writeFlag_ipf : (s.writeFlag f).ipf = s.ipf := rfl
@[simp] theorem writeFlag_platform : (s.writeFlag f).platform = s.platform := rfl
@[simp] theorem writeFlag_faulted : (s.writeFlag f).faulted = s.faulted := rfl
@[simp] theorem writeFlag_initialized : (s.writeFlag f).initialized = s.initialized := rfl
@[simp] theorem writeFlag_params : (s.writeFlag f).params = s.params := rfl
@[simp] theorem writeFlag_raised : (s.writeFlag f).raised = s.raised := rfl
/-- Nothing else changes. -/
theorem writeFlag_rest : { s.writeFlag f with v := s.v } = s := rfl

@[simp] theorem writeFlagged_memory : (s.writeFlagged x b f).memory = s.memory := rfl
@[simp] theorem writeFlagged_i : (s.writeFlagged x b f).i = s.i := rfl
@[simp] theorem writeFlagged_pc : (s.writeFlagged x b f).pc = s.pc := rfl
@[simp] theorem writeFlagged_stack : (s.writeFlagged x b f).stack = s.stack := rfl
@[simp] theorem writeFlagged_sp : (s.writeFlagged x b f).sp = s.sp := rfl
@[simp] theorem writeFlagged_hp48 : (s.writeFlagged x b f).hp48 = s.hp48 := rfl
@[simp] theorem writeFlagged_dt : (s.writeFlagged x b f).dt = s.dt := rfl
@[simp] theorem writeFlagged_st : (s.writeFlagged x b f).st = s.st := rfl
@[simp] theorem writeFlagged_keypad : (s.writeFlagged x b f).keypad = s.keypad := rfl
@[simp] theorem writeFlagged_screen : (s.writeFlagged x b f).screen = s.screen := rfl
@[simp] theorem writeFlagged_hiRes : (s.writeFlagged x b f).hiRes = s.hiRes := rfl
@[simp] theorem writeFlagged_screenUpdated : (s.writeFlagged x b f).screenUpdated = s.screenUpdated := rfl
@[simp] theorem writeFlagged_ended : (s.writeFlagged x b f).ended = s.ended := rfl
@[simp] theorem writeFlagged_waitForKey : (s.writeFlagged x b f).waitForKey = s.waitForKey := rfl
@[simp] theorem writeFlagged_opcode : (s.writeFlagged x b f).opcode = s.opcode := rfl
@[simp] theorem writeFlagged_rng : (s.writeFlagged x b f).rng = s.rng := rfl
@[simp] theorem writeFlagged_ipf : (s.writeFlagged x b f).ipf = s.ipf := rfl
@[simp] theorem writeFlagged_platform : (s.writeFlagged x b f).platform = s.platform := rfl
@[simp] theorem writeFlagged_faulted : (s.writeFlagged x b f).faulted = s.faulted := rfl
@[simp] theorem writeFlagged_initialized : (s.writeFlagged x b f).initialized = s.initialized := rfl
@[simp] theorem writeFlagged_params : (s.writeFlagged x b f).params = s.params := rfl
@[simp] theorem writeFlagged_raised : (s.writeFlagged x b f).raised = s.raised := rfl
/-- Nothing else changes. -/
theorem writeFlagged_rest : { s.writeFlagged x b f with v := s.v } = s := rfl

@[simp] theorem jumpTo_memory : (s.jumpTo w).memory = s.memory := rfl
@[simp] theorem jumpTo_v : (s.jumpTo w).v = s.v := rfl
@[simp] theorem jumpTo_i : (s.jumpTo w).i = s.i := rfl
@[simp] theorem jumpTo_pc : (s.jumpTo w).pc = w := rfl
@[simp] theorem jumpTo_stack : (s.jumpTo w).stack = s.stack := rfl
@[simp] theorem jumpTo_sp : (s.jumpTo w).sp = s.sp := rfl
@[simp] theorem jumpTo_hp48 : (s.jumpTo w).hp48 = s.hp48 := rfl
@[simp] theorem jumpTo_dt : (s.jumpTo w).dt = s.dt := rfl
@[simp] theorem jumpTo_st : (s.jumpTo w).st = s.st := rfl
@[simp] theorem jumpTo_keypad : (s.jumpTo w).keypad = s.keypad := rfl
@[simp] theorem jumpTo_screen : (s.jumpTo w).screen = s.screen := rfl
@[simp] theorem jumpTo_hiRes : (s.jumpTo w).hiRes = s.hiRes := rfl
@[simp] theorem jumpTo_screenUpdated : (s.jumpTo w).screenUpdated = s.screenUpdated := rfl
@[simp] theorem jumpTo_ended : (s.jumpTo w).ended = s.ended := rfl
@[simp] theorem jumpTo_waitForKey : (s.jumpTo w).waitForKey = s.waitForKey := rfl
@[simp] theorem jumpTo_opcode : (s.jumpTo w).opcode = s.opcode := rfl
@[simp] theorem jumpTo_rng : (s.jumpTo w).rng = s.rng := rfl
@[simp] theorem jumpTo_ipf : (s.jumpTo w).ipf = s.ipf := rfl
@[simp] theorem jumpTo_platform : (s.jumpTo w).platform = s.platform := rfl
@[simp] theorem jumpTo_faulted : (s.jumpTo w).faulted = s.faulted := rfl
@[simp] theorem jumpTo_initialized : (s.jumpTo w).initialized = s.initialized := rfl
@[simp] theorem jumpTo_params : (s.jumpTo w).params = s.params := rfl
@[simp] theorem jumpTo_raised : (s.jumpTo w).raised = s.raised := rfl
/-- Nothing else changes. -/
theorem jumpTo_rest : { s.jumpTo w with pc := s.pc } = s := rfl

@[simp] theorem skipIf_memory : (s.skipIf f).memory = s.memory := by cases f <;> rfl
@[simp] theorem skipIf_v : (s.skipIf f).v = s.v := by cases f <;> rfl
@[simp] theorem skipIf_i : (s.skipIf f).i = s.i := by cases f <;> rfl
@[simp] theorem skipIf_pc : (s.skipIf f).pc = if f then s.pc + 2 else s.pc := by cases f <;> rfl
@[simp] theorem skipIf_stack : (s.skipIf f).stack = s.stack := by cases f <;> rfl
@[simp] theorem skipIf_sp : (s.skipIf f).sp = s.sp := by cases f <;> rfl
@[simp] theorem skipIf_hp48 : (s.skipIf f).hp48 = s.hp48 := by cases f <;> rfl
@[simp] theorem skipIf_dt : (s.skipIf f).dt = s.dt := by cases f <;> rfl
@[simp] theorem skipIf_st : (s.skipIf f).st = s.st := by cases f <;> rfl
@[simp] theorem skipIf_keypad : (s.skipIf f).keypad = s.keypad := by cases f <;> rfl
@[simp] theorem skipIf_screen : (s.skipIf f).screen = s.screen := by cases f <;> rfl
@[simp] theorem skipIf_hiRes : (s.skipIf f).hiRes = s.hiRes := by cases f <;> rfl
@[simp] theorem skipIf_screenUpdated : (s.skipIf f).screenUpdated = s.screenUpdated := by cases f <;> rfl
@[simp] theorem skipIf_ended : (s.skipIf f).ended = s.ended := by cases f <;> rfl
@[simp] theorem skipIf_waitForKey : (s.skipIf f).waitForKey = s.waitForKey := by cases f <;> rfl
@[simp] theorem skipIf_opcode : (s.skipIf f).opcode = s.opcode := by cases f <;> rfl
@[simp] theorem skipIf_rng : (s.skipIf f).rng = s.rng := by cases f <;> rfl
@[simp] theorem skipIf_ipf : (s.skipIf f).ipf = s.ipf := by cases f <;> rfl
@[simp] theorem skipIf_platform : (s.skipIf f).platform = s.platform := by cases f <;> rfl
@[simp] theorem skipIf_faulted : (s.skipIf f).faulted = s.faulted := by cases f <;> rfl
@[simp] theorem skipIf_initialized : (s.skipIf f).initialized = s.initialized := by cases f <;> rfl
@[simp] theorem skipIf_params : (s.skipIf f).params = s.params := by cases f <;> rfl
@[simp] theorem skipIf_raised : (s.skipIf f).raised = s.raised := by cases f <;> rfl
/-- Nothing else changes. -/
theorem skipIf_rest : { s.skipIf f with pc := s.pc } = s := by cases f <;> rfl

@[simp] theorem rewind_memory : s.rewind.memory = s.memory := rfl
@[simp] theorem rewind_v : s.rewind.v = s.v := rfl
@[simp] theorem rewind_i : s.rewind.i = s.i := rfl
@[simp] theorem rewind_pc : (s.rewind).pc = s.pc - 2 := rfl
@[simp] theorem rewind_stack : s.rewind.stack = s.stack := rfl
@[simp] theorem rewind_sp : s.rewind.sp = s.sp := rfl
@[simp] theorem rewind_hp48 : s.rewind.hp48 = s.hp48 := rfl
@[simp] theorem rewind_dt : s.rewind.dt = s.dt := rfl
@[simp] theorem rewind_st : s.rewind.st = s.st := rfl
@[simp] theorem rewind_keypad : s.rewind.keypad = s.keypad := rfl
@[simp] theorem rewind_screen : s.rewind.screen = s.screen := rfl
@[simp] theorem rewind_hiRes : s.rewind.hiRes = s.hiRes := rfl
@[simp] theorem rewind_screenUpdated : s.rewind.screenUpdated = s.screenUpdated := rfl
@[simp] theorem rewind_ended : s.rewind.ended = s.ended := rfl
@[simp] theorem rewind_waitForKey : s.rewind.waitForKey = s.waitForKey := rfl
@[simp] theorem rewind_opcode : s.rewind.opcode = s.opcode := rfl
@[simp] theorem rewind_rng : s.rewind.rng = s.rng := rfl
@[simp] theorem rewind_ipf : s.rewind.ipf = s.ipf := rfl
@[simp] theorem rewind_platform : s.rewind.platform = s.platform := rfl
@[simp] theorem rewind_faulted : s.rewind.faulted = s.faulted := rfl
@[simp] theorem rewind_initialized : s.rewind.initialized = s.initialized := rfl
@[simp] theorem rewind_params : s.rewind.params = s.params := rfl
@[simp] theorem rewind_raised : s.rewind.raised = s.raised := rfl
/-- Nothing else changes. -/
theorem rewind_rest : { s.rewind with pc := s.pc } = s := rfl

@[simp] theorem push_memory : (s.push w).memory = s.memory := rfl
@[simp] theorem push_v : (s.push w).v = s.v := rfl
@[simp] theorem push_i : (s.push w).i = s.i := rfl
@[simp] theorem push_pc : (s.push w).pc = s.pc := rfl
@[simp] theorem push_sp : (s.push w).sp = s.sp + 1 := rfl
@[simp] theorem push_hp48 : (s.push w).hp48 = s.hp48 := rfl
@[simp] theorem push_dt : (s.push w).dt = s.dt := rfl
@[simp] theorem push_st : (s.push w).st = s.st := rfl
@[simp] theorem push_keypad : (s.push w).keypad = s.keypad := rfl
@[simp] theorem push_screen : (s.push w).screen = s.screen := rfl
@[simp] theorem push_hiRes : (s.push w).hiRes = s.hiRes := rfl
@[simp] theorem push_screenUpdated : (s.push w).screenUpdated = s.screenUpdated := rfl
@[simp] theorem push_ended : (s.push w).ended = s.ended := rfl
@[simp] theorem push_waitForKey : (s.push w).waitForKey = s.waitForKey := rfl
@[simp] theorem push_opcode : (s.push w).opcode = s.opcode := rfl
@[simp] theorem push_rng : (s.push w).rng = s.rng := rfl
@[simp] theorem push_ipf : (s.push w).ipf = s.ipf := rfl
@[simp] theorem push_platform : (s.push w).platform = s.platform := rfl
@[simp] theorem push_faulted : (s.push w).faulted = s.faulted := rfl
@[simp] theorem push_initialized : (s.push w).initialized = s.initialized := rfl
@[simp] theorem push_params : (s.push w).params = s.params := rfl
@[simp] theorem push_raised : (s.push w).raised = s.raised := rfl
/-- Nothing else changes. -/
theorem push_rest : { s.push w with stack := s.stack, sp := s.sp } = s := rfl

@[simp] theorem pop_memory : s.pop.memory = s.memory := rfl
@[simp] theorem pop_v : s.pop.v = s.v := rfl
@[simp] theorem pop_i : s.pop.i = s.i := rfl
@[simp] theorem pop_pc : s.pop.pc = s.pc := rfl
@[simp] theorem pop_stack : s.pop.stack = s.stack := rfl
@[simp] theorem pop_sp : (s.pop).sp = s.sp - 1 := rfl
@[simp] theorem pop_hp48 : s.pop.hp48 = s.hp48 := rfl
@[simp] theorem pop_dt : s.pop.dt = s.dt := rfl
@[simp] theorem pop_st : s.pop.st = s.st := rfl
@[simp] theorem pop_keypad : s.pop.keypad = s.keypad := rfl
@[simp] theorem pop_screen : s.pop.screen = s.screen := rfl
@[simp] theorem pop_hiRes : s.pop.hiRes = s.hiRes := rfl
@[simp] theorem pop_screenUpdated : s.pop.screenUpdated = s.screenUpdated := rfl
@[simp] theorem pop_ended : s.pop.ended = s.ended := rfl
@[simp] theorem pop_waitForKey : s.pop.waitForKey = s.waitForKey := rfl
@[simp] theorem pop_opcode : s.pop.opcode = s.opcode := rfl
@[simp] theorem pop_rng : s.pop.rng = s.rng := rfl
@[simp] theorem pop_ipf : s.pop.ipf = s.ipf := rfl
@[simp] theorem pop_platform : s.pop.platform = s.platform := rfl
@[simp] theorem pop_faulted : s.pop.faulted = s.faulted := rfl
@[simp] theorem pop_initialized : s.pop.initialized = s.initialized := rfl
@[simp] theorem pop_params : s.pop.params = s.params := rfl
@[simp] theorem pop_raised : s.pop.raised = s.raised := rfl
/-- Nothing else changes. -/
theorem pop_rest : { s.pop with sp := s.sp } = s := rfl

@[simp] theorem writeByte_v : (s.writeByte a b).v = s.v := rfl
@[simp] theorem writeByte_i : (s.writeByte a b).i = s.i := rfl
@[simp] theorem writeByte_pc : (s.writeByte a b).pc = s.pc := rfl
@[simp] theorem writeByte_stack : (s.writeByte a b).stack = s.stack := rfl
@[simp] theorem writeByte_sp : (s.writeByte a b).sp = s.sp := rfl
@[simp] theorem writeByte_hp48 : (s.writeByte a b).hp48 = s.hp48 := rfl
@[simp] theorem writeByte_dt : (s.writeByte a b).dt = s.dt := rfl
@[simp] theorem writeByte_st : (s.writeByte a b).st = s.st := rfl
@[simp] theorem writeByte_keypad : (s.writeByte a b).keypad = s.keypad := rfl
@[simp] theorem writeByte_screen : (s.writeByte a b).screen = s.screen := rfl
@[simp] theorem writeByte_hiRes : (s.writeByte a b).hiRes = s.hiRes := rfl
@[simp] theorem writeByte_screenUpdated : (s.writeByte a b).screenUpdated = s.screenUpdated := rfl
@[simp] theorem writeByte_ended : (s.writeByte a b).ended = s.ended := rfl
@[simp] theorem writeByte_waitForKey : (s.writeByte a b).waitForKey = s.waitForKey := rfl
@[simp] theorem writeByte_opcode : (s.writeByte a b).opcode = s.opcode := rfl
@[simp] theorem writeByte_rng : (s.writeByte a b).rng = s.rng := rfl
@[simp] theorem writeByte_ipf : (s.writeByte a b).ipf = s.ipf := rfl
@[simp] theorem writeByte_platform : (s.writeByte a b).platform = s.platform := rfl
@[simp] theorem writeByte_faulted : (s.writeByte a b).faulted = s.faulted := rfl
@[simp] theorem writeByte_initialized : (s.writeByte a b).initialized = s.initialized := rfl
@[simp] theorem writeByte_params : (s.writeByte a b).params = s.params := rfl
@[simp] theorem writeByte_raised : (s.writeByte a b).raised = s.raised := rfl
/-- Nothing else changes. -/
theorem writeByte_rest : { s.writeByte a b with memory := s.memory } = s := rfl

@[simp] theorem writeBytes_v : (s.writeBytes a bs).v = s.v := rfl
@[simp] theorem writeBytes_i : (s.writeBytes a bs).i = s.i := rfl
@[simp] theorem writeBytes_pc : (s.writeBytes a bs).pc = s.pc := rfl
@[simp] theorem writeBytes_stack : (s.writeBytes a bs).stack = s.stack := rfl
@[simp] theorem writeBytes_sp : (s.writeBytes a bs).sp = s.sp := rfl
@[simp] theorem writeBytes_hp48 : (s.writeBytes a bs).hp48 = s.hp48 := rfl
@[simp] theorem writeBytes_dt : (s.writeBytes a bs).dt = s.dt := rfl
@[simp] theorem writeBytes_st : (s.writeBytes a bs).st = s.st := rfl
@[simp] theorem writeBytes_keypad : (s.writeBytes a bs).keypad = s.keypad := rfl
@[simp] theorem writeBytes_screen : (s.writeBytes a bs).screen = s.screen := rfl
@[simp] theorem writeBytes_hiRes : (s.writeBytes a bs).hiRes = s.hiRes := rfl
@[simp] theorem writeBytes_screenUpdated : (s.writeBytes a bs).screenUpdated = s.screenUpdated := rfl
@[simp] theorem writeBytes_ended : (s.writeBytes a bs).ended = s.ended := rfl
@[simp] theorem writeBytes_waitForKey : (s.writeBytes a bs).waitForKey = s.waitForKey := rfl
@[simp] theorem writeBytes_opcode : (s.writeBytes a bs).opcode = s.opcode := rfl
@[simp] theorem writeBytes_rng : (s.writeBytes a bs).rng = s.rng := rfl
@[simp] theorem writeBytes_ipf : (s.writeBytes a bs).ipf = s.ipf := rfl
@[simp] theorem writeBytes_platform : (s.writeBytes a bs).platform = s.platform := rfl
@[simp] theorem writeBytes_faulted : (s.writeBytes a bs).faulted = s.faulted := rfl
@[simp] theorem writeBytes_initialized : (s.writeBytes a bs).initialized = s.initialized := rfl
@[simp] theorem writeBytes_params : (s.writeBytes a bs).params = s.params := rfl
@[simp] theorem writeBytes_raised : (s.writeBytes a bs).raised = s.raised := rfl
/-- Nothing else changes. -/
theorem writeBytes_rest : { s.writeBytes a bs with memory := s.memory } = s := rfl

@[simp] theorem writeScreen_memory : (s.writeScreen scr).memory = s.memory := rfl
@[simp] theorem writeScreen_v : (s.writeScreen scr).v = s.v := rfl
@[simp] theorem writeScreen_i : (s.writeScreen scr).i = s.i := rfl
@[simp] theorem writeScreen_pc : (s.writeScreen scr).pc = s.pc := rfl
@[simp] theorem writeScreen_stack : (s.writeScreen scr).stack = s.stack := rfl
@[simp] theorem writeScreen_sp : (s.writeScreen scr).sp = s.sp := rfl
@[simp] theorem writeScreen_hp48 : (s.writeScreen scr).hp48 = s.hp48 := rfl
@[simp] theorem writeScreen_dt : (s.writeScreen scr).dt = s.dt := rfl
@[simp] theorem writeScreen_st : (s.writeScreen scr).st = s.st := rfl
@[simp] theorem writeScreen_keypad : (s.writeScreen scr).keypad = s.keypad := rfl
@[simp] theorem writeScreen_screen : (s.writeScreen scr).screen = scr := rfl
@[simp] theorem writeScreen_hiRes : (s.writeScreen scr).hiRes = s.hiRes := rfl
@[simp] theorem writeScreen_screenUpdated : (s.writeScreen scr).screenUpdated = true := rfl
@[simp] theorem writeScreen_ended : (s.writeScreen scr).ended = s.ended := rfl
@[simp] theorem writeScreen_waitForKey : (s.writeScreen scr).waitForKey = s.waitForKey := rfl
@[simp] theorem writeScreen_opcode : (s.writeScreen scr).opcode = s.opcode := rfl
@[simp] theorem writeScreen_rng : (s.writeScreen scr).rng = s.rng := rfl
@[simp] theorem writeScreen_ipf : (s.writeScreen scr).ipf = s.ipf := rfl
@[simp] theorem writeScreen_platform : (s.writeScreen scr).platform = s.platform := rfl
@[simp] theorem writeScreen_faulted : (s.writeScreen scr).faulted = s.faulted := rfl
@[simp] theorem writeScreen_initialized : (s.writeScreen scr).initialized = s.initialized := rfl
@[simp] theorem writeScreen_params : (s.writeScreen scr).params = s.params := rfl
@[simp] theorem writeScreen_raised : (s.writeScreen scr).raised = s.raised := rfl
/-- Nothing else changes. -/
theorem writeScreen_rest : { s.writeScreen scr with screen := s.screen, screenUpdated := s.screenUpdated } = s := rfl

@[simp] theorem finishDraw_memory : (s.finishDraw drawn).memory = s.memory := rfl
@[simp] theorem finishDraw_i : (s.finishDraw drawn).i = s.i := rfl
@[simp] theorem finishDraw_pc : (s.finishDraw drawn).pc = s.pc := rfl
@[simp] theorem finishDraw_stack : (s.finishDraw drawn).stack = s.stack := rfl
@[simp] theorem finishDraw_sp : (s.finishDraw drawn).sp = s.sp := rfl
@[simp] theorem finishDraw_hp48 : (s.finishDraw drawn).hp48 = s.hp48 := rfl
@[simp] theorem finishDraw_dt : (s.finishDraw drawn).dt = s.dt := rfl
@[simp] theorem finishDraw_st : (s.finishDraw drawn).st = s.st := rfl
@[simp] theorem finishDraw_keypad : (s.finishDraw drawn).keypad = s.keypad := rfl
@[simp] theorem finishDraw_screen : (s.finishDraw drawn).screen = drawn.1 := rfl
@[simp] theorem finishDraw_hiRes : (s.finishDraw drawn).hiRes = s.hiRes := rfl
@[simp] theorem finishDraw_screenUpdated : (s.finishDraw drawn).screenUpdated = true := rfl
@[simp] theorem finishDraw_ended : (s.finishDraw drawn).ended = s.ended := rfl
@[simp] theorem finishDraw_waitForKey : (s.finishDraw drawn).waitForKey = s.waitForKey := rfl
@[simp] theorem finishDraw_opcode : (s.finishDraw drawn).opcode = s.opcode := rfl
@[simp] theorem finishDraw_rng : (s.finishDraw drawn).rng = s.rng := rfl
@[simp] theorem finishDraw_ipf : (s.finishDraw drawn).ipf = s.ipf := rfl
@[simp] theorem finishDraw_platform : (s.finishDraw drawn).platform = s.platform := rfl
@[simp] theorem finishDraw_faulted : (s.finishDraw drawn).faulted = s.faulted := rfl
@[simp] theorem finishDraw_initialized : (s.finishDraw drawn).initialized = s.initialized := rfl
@[simp] theorem finishDraw_params : (s.finishDraw drawn).params = s.params := rfl
@[simp] theorem finishDraw_raised : (s.finishDraw drawn).raised = s.raised := rfl
/-- Nothing else changes. -/
theorem finishDraw_rest : { s.finishDraw drawn with v := s.v, screen := s.screen, screenUpdated := s.screenUpdated } = s := rfl

@[simp] theorem advanceI_memory : (s.advanceI n).memory = s.memory := rfl
@[simp] theorem advanceI_v : (s.advanceI n).v = s.v := rfl
theorem advanceI_i : (s.advanceI n).i = s.i + BitVec.ofNat 16 n := rfl
@[simp] theorem advanceI_pc : (s.advanceI n).pc = s.pc := rfl
@[simp] theorem advanceI_stack : (s.advanceI n).stack = s.stack := rfl
@[simp] theorem advanceI_sp : (s.advanceI n).sp = s.sp := rfl
@[simp] theorem advanceI_hp48 : (s.advanceI n).hp48 = s.hp48 := rfl
@[simp] theorem advanceI_dt : (s.advanceI n).dt = s.dt := rfl
@[simp] theorem advanceI_st : (s.advanceI n).st = s.st := rfl
@[simp] theorem advanceI_keypad : (s.advanceI n).keypad = s.keypad := rfl
@[simp] theorem advanceI_screen : (s.advanceI n).screen = s.screen := rfl
@[simp] theorem advanceI_hiRes : (s.advanceI n).hiRes = s.hiRes := rfl
@[simp] theorem advanceI_screenUpdated : (s.advanceI n).screenUpdated = s.screenUpdated := rfl
@[simp] theorem advanceI_ended : (s.advanceI n).ended = s.ended := rfl
@[simp] theorem advanceI_waitForKey : (s.advanceI n).waitForKey = s.waitForKey := rfl
@[simp] theorem advanceI_opcode : (s.advanceI n).opcode = s.opcode := rfl
@[simp] theorem advanceI_rng : (s.advanceI n).rng = s.rng := rfl
@[simp] theorem advanceI_ipf : (s.advanceI n).ipf = s.ipf := rfl
@[simp] theorem advanceI_platform : (s.advanceI n).platform = s.platform := rfl
@[simp] theorem advanceI_faulted : (s.advanceI n).faulted = s.faulted := rfl
@[simp] theorem advanceI_initialized : (s.advanceI n).initialized = s.initialized := rfl
@[simp] theorem advanceI_params : (s.advanceI n).params = s.params := rfl
@[simp] theorem advanceI_raised : (s.advanceI n).raised = s.raised := rfl
/-- Nothing else changes. -/
theorem advanceI_rest : { s.advanceI n with i := s.i } = s := rfl

@[simp] theorem loadV_memory : (s.loadV x bytes).memory = s.memory := rfl
@[simp] theorem loadV_i : (s.loadV x bytes).i = s.i := rfl
@[simp] theorem loadV_pc : (s.loadV x bytes).pc = s.pc := rfl
@[simp] theorem loadV_stack : (s.loadV x bytes).stack = s.stack := rfl
@[simp] theorem loadV_sp : (s.loadV x bytes).sp = s.sp := rfl
@[simp] theorem loadV_hp48 : (s.loadV x bytes).hp48 = s.hp48 := rfl
@[simp] theorem loadV_dt : (s.loadV x bytes).dt = s.dt := rfl
@[simp] theorem loadV_st : (s.loadV x bytes).st = s.st := rfl
@[simp] theorem loadV_keypad : (s.loadV x bytes).keypad = s.keypad := rfl
@[simp] theorem loadV_screen : (s.loadV x bytes).screen = s.screen := rfl
@[simp] theorem loadV_hiRes : (s.loadV x bytes).hiRes = s.hiRes := rfl
@[simp] theorem loadV_screenUpdated : (s.loadV x bytes).screenUpdated = s.screenUpdated := rfl
@[simp] theorem loadV_ended : (s.loadV x bytes).ended = s.ended := rfl
@[simp] theorem loadV_waitForKey : (s.loadV x bytes).waitForKey = s.waitForKey := rfl
@[simp] theorem loadV_opcode : (s.loadV x bytes).opcode = s.opcode := rfl
@[simp] theorem loadV_rng : (s.loadV x bytes).rng = s.rng := rfl
@[simp] theorem loadV_ipf : (s.loadV x bytes).ipf = s.ipf := rfl
@[simp] theorem loadV_platform : (s.loadV x bytes).platform = s.platform := rfl
@[simp] theorem loadV_faulted : (s.loadV x bytes).faulted = s.faulted := rfl
@[simp] theorem loadV_initialized : (s.loadV x bytes).initialized = s.initialized := rfl
@[simp] theorem loadV_params : (s.loadV x bytes).params = s.params := rfl
@[simp] theorem loadV_raised : (s.loadV x bytes).raised = s.raised := rfl
/-- Nothing else changes. -/
theorem loadV_rest : { s.loadV x bytes with v := s.v } = s := by simp only [State.loadV]

@[simp] theorem storeHp48_memory : (s.storeHp48 x).memory = s.memory := rfl
@[simp] theorem storeHp48_v : (s.storeHp48 x).v = s.v := rfl
@[simp] theorem storeHp48_i : (s.storeHp48 x).i = s.i := rfl
@[simp] theorem storeHp48_pc : (s.storeHp48 x).pc = s.pc := rfl
@[simp] theorem storeHp48_stack : (s.storeHp48 x).stack = s.stack := rfl
@[simp] theorem storeHp48_sp : (s.storeHp48 x).sp = s.sp := rfl
@[simp] theorem storeHp48_dt : (s.storeHp48 x).dt = s.dt := rfl
@[simp] theorem storeHp48_st : (s.storeHp48 x).st = s.st := rfl
@[simp] theorem storeHp48_keypad : (s.storeHp48 x).keypad = s.keypad := rfl
@[simp] theorem storeHp48_screen : (s.storeHp48 x).screen = s.screen := rfl
@[simp] theorem storeHp48_hiRes : (s.storeHp48 x).hiRes = s.hiRes := rfl
@[simp] theorem storeHp48_screenUpdated : (s.storeHp48 x).screenUpdated = s.screenUpdated := rfl
@[simp] theorem storeHp48_ended : (s.storeHp48 x).ended = s.ended := rfl
@[simp] theorem storeHp48_waitForKey : (s.storeHp48 x).waitForKey = s.waitForKey := rfl
@[simp] theorem storeHp48_opcode : (s.storeHp48 x).opcode = s.opcode := rfl
@[simp] theorem storeHp48_rng : (s.storeHp48 x).rng = s.rng := rfl
@[simp] theorem storeHp48_ipf : (s.storeHp48 x).ipf = s.ipf := rfl
@[simp] theorem storeHp48_platform : (s.storeHp48 x).platform = s.platform := rfl
@[simp] theorem storeHp48_faulted : (s.storeHp48 x).faulted = s.faulted := rfl
@[simp] theorem storeHp48_initialized : (s.storeHp48 x).initialized = s.initialized := rfl
@[simp] theorem storeHp48_params : (s.storeHp48 x).params = s.params := rfl
@[simp] theorem storeHp48_raised : (s.storeHp48 x).raised = s.raised := rfl
/-- Nothing else changes. -/
theorem storeHp48_rest : { s.storeHp48 x with hp48 := s.hp48 } = s := by simp only [State.storeHp48]

@[simp] theorem setI_memory : (s.setI w).memory = s.memory := rfl
@[simp] theorem setI_v : (s.setI w).v = s.v := rfl
@[simp] theorem setI_i : (s.setI w).i = w := rfl
@[simp] theorem setI_pc : (s.setI w).pc = s.pc := rfl
@[simp] theorem setI_stack : (s.setI w).stack = s.stack := rfl
@[simp] theorem setI_sp : (s.setI w).sp = s.sp := rfl
@[simp] theorem setI_hp48 : (s.setI w).hp48 = s.hp48 := rfl
@[simp] theorem setI_dt : (s.setI w).dt = s.dt := rfl
@[simp] theorem setI_st : (s.setI w).st = s.st := rfl
@[simp] theorem setI_keypad : (s.setI w).keypad = s.keypad := rfl
@[simp] theorem setI_screen : (s.setI w).screen = s.screen := rfl
@[simp] theorem setI_hiRes : (s.setI w).hiRes = s.hiRes := rfl
@[simp] theorem setI_screenUpdated : (s.setI w).screenUpdated = s.screenUpdated := rfl
@[simp] theorem setI_ended : (s.setI w).ended = s.ended := rfl
@[simp] theorem setI_waitForKey : (s.setI w).waitForKey = s.waitForKey := rfl
@[simp] theorem setI_opcode : (s.setI w).opcode = s.opcode := rfl
@[simp] theorem setI_rng : (s.setI w).rng = s.rng := rfl
@[simp] theorem setI_ipf : (s.setI w).ipf = s.ipf := rfl
@[simp] theorem setI_platform : (s.setI w).platform = s.platform := rfl
@[simp] theorem setI_faulted : (s.setI w).faulted = s.faulted := rfl
@[simp] theorem setI_initialized : (s.setI w).initialized = s.initialized := rfl
@[simp] theorem setI_params : (s.setI w).params = s.params := rfl
@[simp] theorem setI_raised : (s.setI w).raised = s.raised := rfl
/-- Nothing else changes. -/
theorem setI_rest : { s.setI w with i := s.i } = s := rfl

@[simp] theorem setDt_memory : (s.setDt b).memory = s.memory := rfl
@[simp] theorem setDt_v : (s.setDt b).v = s.v := rfl
@[simp] theorem setDt_i : (s.setDt b).i = s.i := rfl
@[simp] theorem setDt_pc : (s.setDt b).pc = s.pc := rfl
@[simp] theorem setDt_stack : (s.setDt b).stack = s.stack := rfl
@[simp] theorem setDt_sp : (s.setDt b).sp = s.sp := rfl
@[simp] theorem setDt_hp48 : (s.setDt b).hp48 = s.hp48 := rfl
@[simp] theorem setDt_dt : (s.setDt b).dt = b := rfl
@[simp] theorem setDt_st : (s.setDt b).st = s.st := rfl
@[simp] theorem setDt_keypad : (s.setDt b).keypad = s.keypad := rfl
@[simp] theorem setDt_screen : (s.setDt b).screen = s.screen := rfl
@[simp] theorem setDt_hiRes : (s.setDt b).hiRes = s.hiRes := rfl
@[simp] theorem setDt_screenUpdated : (s.setDt b).screenUpdated = s.screenUpdated := rfl
@[simp] theorem setDt_ended : (s.setDt b).ended = s.ended := rfl
@[simp] theorem setDt_waitForKey : (s.setDt b).waitForKey = s.waitForKey := rfl
@[simp] theorem setDt_opcode : (s.setDt b).opcode = s.opcode := rfl
@[simp] theorem setDt_rng : (s.setDt b).rng = s.rng := rfl
@[simp] theorem setDt_ipf : (s.setDt b).ipf = s.ipf := rfl
@[simp] theorem setDt_platform : (s.setDt b).platform = s.platform := rfl
@[simp] theorem setDt_faulted : (s.setDt b).faulted = s.faulted := rfl
@[simp] theorem setDt_initialized : (s.setDt b).initialized = s.initialized := rfl
@[simp] theorem setDt_params : (s.setDt b).params = s.params := rfl
@[simp] theorem setDt_raised : (s.setDt b).raised = s.raised := rfl
/-- Nothing else changes. -/
theorem setDt_rest : { s.setDt b with dt := s.dt } = s := rfl

@[simp] theorem setSt_memory : (s.setSt b).memory = s.memory := rfl
@[simp] theorem setSt_v : (s.setSt b).v = s.v := rfl
@[simp] theorem setSt_i : (s.setSt b).i = s.i := rfl
@[simp] theorem setSt_pc : (s.setSt b).pc = s.pc := rfl
@[simp] theorem setSt_stack : (s.setSt b).stack = s.stack := rfl
@[simp] theorem setSt_sp : (s.setSt b).sp = s.sp := rfl
@[simp] theorem setSt_hp48 : (s.setSt b).hp48 = s.hp48 := rfl
@[simp] theorem setSt_dt : (s.setSt b).dt = s.dt := rfl
@[simp] theorem setSt_st : (s.setSt b).st = b := rfl
@[simp] theorem setSt_keypad : (s.setSt b).keypad = s.keypad := rfl
@[simp] theorem setSt_screen : (s.setSt b).screen = s.screen := rfl
@[simp] theorem setSt_hiRes : (s.setSt b).hiRes = s.hiRes := rfl
@[simp] theorem setSt_screenUpdated : (s.setSt b).screenUpdated = s.screenUpdated := rfl
@[simp] theorem setSt_ended : (s.setSt b).ended = s.ended := rfl
@[simp] theorem setSt_waitForKey : (s.setSt b).waitForKey = s.waitForKey := rfl
@[simp] theorem setSt_opcode : (s.setSt b).opcode = s.opcode := rfl
@[simp] theorem setSt_rng : (s.setSt b).rng = s.rng := rfl
@[simp] theorem setSt_ipf : (s.setSt b).ipf = s.ipf := rfl
@[simp] theorem setSt_platform : (s.setSt b).platform = s.platform := rfl
@[simp] theorem setSt_faulted : (s.setSt b).faulted = s.faulted := rfl
@[simp] theorem setSt_initialized : (s.setSt b).initialized = s.initialized := rfl
@[simp] theorem setSt_params : (s.setSt b).params = s.params := rfl
@[simp] theorem setSt_raised : (s.setSt b).raised = s.raised := rfl
/-- Nothing else changes. -/
theorem setSt_rest : { s.setSt b with st := s.st } = s := rfl

@[simp] theorem setEnded_memory : s.setEnded.memory = s.memory := rfl
@[simp] theorem setEnded_v : s.setEnded.v = s.v := rfl
@[simp] theorem setEnded_i : s.setEnded.i = s.i := rfl
@[simp] theorem setEnded_pc : s.setEnded.pc = s.pc := rfl
@[simp] theorem setEnded_stack : s.setEnded.stack = s.stack := rfl
@[simp] theorem setEnded_sp : s.setEnded.sp = s.sp := rfl
@[simp] theorem setEnded_hp48 : s.setEnded.hp48 = s.hp48 := rfl
@[simp] theorem setEnded_dt : s.setEnded.dt = s.dt := rfl
@[simp] theorem setEnded_st : s.setEnded.st = s.st := rfl
@[simp] theorem setEnded_keypad : s.setEnded.keypad = s.keypad := rfl
@[simp] theorem setEnded_screen : s.setEnded.screen = s.screen := rfl
@[simp] theorem setEnded_hiRes : s.setEnded.hiRes = s.hiRes := rfl
@[simp] theorem setEnded_screenUpdated : s.setEnded.screenUpdated = s.screenUpdated := rfl
@[simp] theorem setEnded_ended : (s.setEnded).ended = true := rfl
@[simp] theorem setEnded_waitForKey : s.setEnded.waitForKey = s.waitForKey := rfl
@[simp] theorem setEnded_opcode : s.setEnded.opcode = s.opcode := rfl
@[simp] theorem setEnded_rng : s.setEnded.rng = s.rng := rfl
@[simp] theorem setEnded_ipf : s.setEnded.ipf = s.ipf := rfl
@[simp] theorem setEnded_platform : s.setEnded.platform = s.platform := rfl
@[simp] theorem setEnded_faulted : s.setEnded.faulted = s.faulted := rfl
@[simp] theorem setEnded_initialized : s.setEnded.initialized = s.initialized := rfl
@[simp] theorem setEnded_params : s.setEnded.params = s.params := rfl
@[simp] theorem setEnded_raised : s.setEnded.raised = s.raised := rfl
/-- Nothing else changes. -/
theorem setEnded_rest : { s.setEnded with ended := s.ended } = s := rfl

@[simp] theorem setHiRes_memory : (s.setHiRes f).memory = s.memory := rfl
@[simp] theorem setHiRes_v : (s.setHiRes f).v = s.v := rfl
@[simp] theorem setHiRes_i : (s.setHiRes f).i = s.i := rfl
@[simp] theorem setHiRes_pc : (s.setHiRes f).pc = s.pc := rfl
@[simp] theorem setHiRes_stack : (s.setHiRes f).stack = s.stack := rfl
@[simp] theorem setHiRes_sp : (s.setHiRes f).sp = s.sp := rfl
@[simp] theorem setHiRes_hp48 : (s.setHiRes f).hp48 = s.hp48 := rfl
@[simp] theorem setHiRes_dt : (s.setHiRes f).dt = s.dt := rfl
@[simp] theorem setHiRes_st : (s.setHiRes f).st = s.st := rfl
@[simp] theorem setHiRes_keypad : (s.setHiRes f).keypad = s.keypad := rfl
@[simp] theorem setHiRes_screen : (s.setHiRes f).screen = s.screen := rfl
@[simp] theorem setHiRes_hiRes : (s.setHiRes f).hiRes = f := rfl
@[simp] theorem setHiRes_screenUpdated : (s.setHiRes f).screenUpdated = true := rfl
@[simp] theorem setHiRes_ended : (s.setHiRes f).ended = s.ended := rfl
@[simp] theorem setHiRes_waitForKey : (s.setHiRes f).waitForKey = s.waitForKey := rfl
@[simp] theorem setHiRes_opcode : (s.setHiRes f).opcode = s.opcode := rfl
@[simp] theorem setHiRes_rng : (s.setHiRes f).rng = s.rng := rfl
@[simp] theorem setHiRes_ipf : (s.setHiRes f).ipf = s.ipf := rfl
@[simp] theorem setHiRes_platform : (s.setHiRes f).platform = s.platform := rfl
@[simp] theorem setHiRes_faulted : (s.setHiRes f).faulted = s.faulted := rfl
@[simp] theorem setHiRes_initialized : (s.setHiRes f).initialized = s.initialized := rfl
@[simp] theorem setHiRes_params : (s.setHiRes f).params = s.params := rfl
@[simp] theorem setHiRes_raised : (s.setHiRes f).raised = s.raised := rfl
/-- Nothing else changes. -/
theorem setHiRes_rest : { s.setHiRes f with hiRes := s.hiRes, screenUpdated := s.screenUpdated } = s := rfl

@[simp] theorem setWait_memory : (s.setWait kw).memory = s.memory := rfl
@[simp] theorem setWait_v : (s.setWait kw).v = s.v := rfl
@[simp] theorem setWait_i : (s.setWait kw).i = s.i := rfl
@[simp] theorem setWait_pc : (s.setWait kw).pc = s.pc := rfl
@[simp] theorem setWait_stack : (s.setWait kw).stack = s.stack := rfl
@[simp] theorem setWait_sp : (s.setWait kw).sp = s.sp := rfl
@[simp] theorem setWait_hp48 : (s.setWait kw).hp48 = s.hp48 := rfl
@[simp] theorem setWait_dt : (s.setWait kw).dt = s.dt := rfl
@[simp] theorem setWait_st : (s.setWait kw).st = s.st := rfl
@[simp] theorem setWait_keypad : (s.setWait kw).keypad = s.keypad := rfl
@[simp] theorem setWait_screen : (s.setWait kw).screen = s.screen := rfl
@[simp] theorem setWait_hiRes : (s.setWait kw).hiRes = s.hiRes := rfl
@[simp] theorem setWait_screenUpdated : (s.setWait kw).screenUpdated = s.screenUpdated := rfl
@[simp] theorem setWait_ended : (s.setWait kw).ended = s.ended := rfl
@[simp] theorem setWait_waitForKey : (s.setWait kw).waitForKey = kw := rfl
@[simp] theorem setWait_opcode : (s.setWait kw).opcode = s.opcode := rfl
@[simp] theorem setWait_rng : (s.setWait kw).rng = s.rng := rfl
@[simp] theorem setWait_ipf : (s.setWait kw).ipf = s.ipf := rfl
@[simp] theorem setWait_platform : (s.setWait kw).platform = s.platform := rfl
@[simp] theorem setWait_faulted : (s.setWait kw).faulted = s.faulted := rfl
@[simp] theorem setWait_initialized : (s.setWait kw).initialized = s.initialized := rfl
@[simp] theorem setWait_params : (s.setWait kw).params = s.params := rfl
@[simp] theorem setWait_raised : (s.setWait kw).raised = s.raised := rfl
/-- Nothing else changes. -/
theorem setWait_rest : { s.setWait kw with waitForKey := s.waitForKey } = s := rfl

@[simp] theorem stepRng_memory : s.stepRng.memory = s.memory := rfl
@[simp] theorem stepRng_v : s.stepRng.v = s.v := rfl
@[simp] theorem stepRng_i : s.stepRng.i = s.i := rfl
@[simp] theorem stepRng_pc : s.stepRng.pc = s.pc := rfl
@[simp] theorem stepRng_stack : s.stepRng.stack = s.stack := rfl
@[simp] theorem stepRng_sp : s.stepRng.sp = s.sp := rfl
@[simp] theorem stepRng_hp48 : s.stepRng.hp48 = s.hp48 := rfl
@[simp] theorem stepRng_dt : s.stepRng.dt = s.dt := rfl
@[simp] theorem stepRng_st : s.stepRng.st = s.st := rfl
@[simp] theorem stepRng_keypad : s.stepRng.keypad = s.keypad := rfl
@[simp] theorem stepRng_screen : s.stepRng.screen = s.screen := rfl
@[simp] theorem stepRng_hiRes : s.stepRng.hiRes = s.hiRes := rfl
@[simp] theorem stepRng_screenUpdated : s.stepRng.screenUpdated = s.screenUpdated := rfl
@[simp] theorem stepRng_ended : s.stepRng.ended = s.ended := rfl
@[simp] theorem stepRng_waitForKey : s.stepRng.waitForKey = s.waitForKey := rfl
@[simp] theorem stepRng_opcode : s.stepRng.opcode = s.opcode := rfl
@[simp] theorem stepRng_rng : (s.stepRng).rng = s.rng * s.params.rngMultiplier + 1 := rfl
@[simp] theorem stepRng_ipf : s.stepRng.ipf = s.ipf := rfl
@[simp] theorem stepRng_platform : s.stepRng.platform = s.platform := rfl
@[simp] theorem stepRng_faulted : s.stepRng.faulted = s.faulted := rfl
@[simp] theorem stepRng_initialized : s.stepRng.initialized = s.initialized := rfl
@[simp] theorem stepRng_params : s.stepRng.params = s.params := rfl
@[simp] theorem stepRng_raised : s.stepRng.raised = s.raised := rfl
/-- Nothing else changes. -/
theorem stepRng_rest : { s.stepRng with rng := s.rng } = s := rfl

end fields

/-! ### V and the flag -/

section registers
variable (s : State) (x z : VReg) (b : Byte) (f : Bool)

/-- What V reads after a write; a register number is spelled as a natural, as simp leaves it. -/
theorem writeV_getElem {k : Nat} (hk : k < 16) : (s.writeV x b).v[k] = if x.val = k then b else s.v[k] :=
  Vector.getElem_set x.isLt hk

@[simp] theorem writeV_getElem_self : (s.writeV x b).v[x.val] = b := by simp [writeV_getElem]

theorem writeV_getElem_ne (h : z ≠ x) : (s.writeV x b).v[z.val] = s.v[z.val] := by
  simp [writeV_getElem, Fin.val_inj, h.symm]

@[simp] theorem writeFlag_getElem_F : (s.writeFlag f).v[15] = flagByte f :=
  writeV_getElem_self s 15 (flagByte f)

theorem writeFlag_getElem_ne (h : z ≠ 15) : (s.writeFlag f).v[z.val] = s.v[z.val] := writeV_getElem_ne s 15 z _ h

/-- Whatever the destination, VF holds the flag afterwards (43_alu.md R701). -/
@[simp] theorem writeFlagged_getElem_F : (s.writeFlagged x b f).v[15] = flagByte f :=
  writeFlag_getElem_F (s.writeV x b) f

/-- A destination other than VF holds the result. -/
theorem writeFlagged_getElem_self (h : x ≠ 15) : (s.writeFlagged x b f).v[x.val] = b := by
  rw [State.writeFlagged, writeFlag_getElem_ne _ _ _ h, writeV_getElem_self]

/-- Every other register keeps its value. -/
theorem writeFlagged_getElem_ne (h : z ≠ x) (h' : z ≠ 15) : (s.writeFlagged x b f).v[z.val] = s.v[z.val] := by
  rw [State.writeFlagged, writeFlag_getElem_ne _ _ _ h', writeV_getElem_ne _ _ _ _ h]

/-- VF after a drawing is its collision bit, every other register is as before. -/
@[simp] theorem finishDraw_getElem_F (drawn : Screen × Bool) : (s.finishDraw drawn).v[15] = flagByte drawn.2 :=
  writeFlag_getElem_F (s.writeScreen drawn.1) drawn.2

theorem finishDraw_getElem_ne (drawn : Screen × Bool) (h : z ≠ 15) : (s.finishDraw drawn).v[z.val] = s.v[z.val] :=
  writeFlag_getElem_ne (s.writeScreen drawn.1) z drawn.2 h

/-- V0 to Vx are the loaded bytes, the registers past Vx as before. -/
theorem loadV_getElem (bytes : VReg → Byte) : (s.loadV x bytes).v[z.val] = if z ≤ x then bytes z else s.v[z.val] := by
  simp [State.loadV]

/-- The hp48 registers up to number x are V0 to Vx, the others as before. -/
theorem storeHp48_getElem (k : Fin 8) :
    (s.storeHp48 x).hp48[k.val] = if k.val ≤ x.val then s.v[k.val] else s.hp48[k.val] := by
  simp [State.storeHp48]

/-- A flag as a number. -/
theorem flagByte_toNat : (flagByte f).toNat = f.toNat := by cases f <;> rfl

end registers

/-! ### Stack and I -/

section others
variable (s : State) (w : Word) (n : Nat)

/-- A push raises SP by one where there is room. -/
theorem push_sp_val (h : s.sp.val < 15) : (s.push w).sp.val = s.sp.val + 1 := by
  show (s.sp + 1).val = _
  rw [Fin.val_add]
  exact Nat.mod_eq_of_lt (show s.sp.val + 1 < 16 by omega)

/-- A pop lowers SP by one where there is something to pop. -/
theorem pop_sp_val (h : 0 < s.sp.val) : s.pop.sp.val = s.sp.val - 1 := Fin.sub_val_of_le (Fin.le_def.2 h)

theorem push_getElem {k : Nat} (hk : k < 16) :
    (s.push w).stack[k] = if (s.sp + 1).val = k then w else s.stack[k] :=
  Vector.getElem_set (s.sp + 1).isLt hk

@[simp] theorem push_top : (s.push w).top = w := by
  show (s.push w).stack[(s.sp + 1).val] = w
  simp [push_getElem]

theorem advanceI_toNat : (s.advanceI n).i.toNat = (s.i.toNat + n) % 65536 := by
  simp [advanceI_i, BitVec.toNat_add]

end others

/-! ### `checked` and `withKey` -/

/-- Everything a checked instruction can answer: the first violation taken, or its effect. -/
theorem checked_cases {violation : Option Violation} {s e : State} {o : Host.Outcome State Fault Refusal}
    (h : checked violation s e = o) :
    (∃ kind, violation = some kind ∧ o = .next (raise kind s)) ∨ (violation = none ∧ o = .next e) := by
  cases violation with
  | none => exact .inr ⟨rfl, h.symm⟩
  | some kind => exact .inl ⟨kind, rfl, h.symm⟩

@[simp] theorem checked_none (s e : State) : checked none s e = .next e := rfl
@[simp] theorem checked_some (kind : Violation) (s e : State) : checked (some kind) s e = .next (raise kind s) := rfl

/-- A key number of 0 to 15 reads its latch. -/
theorem keyDown_of_lt {s : State} {b : Byte} (h : b.toNat < 16) : s.keyDown b = some s.keypad[b.toNat] :=
  Vector.getElem?_eq_getElem h

/-- A key number above 15 reads nothing. -/
theorem keyDown_of_ge {s : State} {b : Byte} (h : 15 < b.toNat) : s.keyDown b = none :=
  Vector.getElem?_eq_none (by omega)

/-- Everything an instruction that uses a key number can answer. -/
theorem withKey_cases (b : Byte) (s : State) (e : Bool → State) :
    (15 < b.toNat ∧ withKey b s e = .next (raise .keyIndex s)) ∨
      ∃ h : b.toNat < 16, withKey b s e = .next (e s.keypad[b.toNat]) := by
  by_cases h : b.toNat < 16
  · exact .inr ⟨h, by rw [withKey, keyDown_of_lt h]⟩
  · exact .inl ⟨by omega, by rw [withKey, keyDown_of_ge (by omega)]⟩

end Sys2Proof.Machine
end

