-- ==== Sys2Proof/Laws/Memory.lean ====
section
/-! SUPPORT. What memory operations do, and that each keeps the canonical form (20_memory.md R203 to R206). -/

namespace Sys2Proof.Machine

open Sys2Proof

/-! ### Reading after erasing, inserting, writing -/

theorem Memory.read_erase (p : Params) (m : Memory) (a k : Nat) :
    Memory.read p (Memory.erase m a) k = if k = a then Memory.unlisted p a else Memory.read p m k := by
  induction m with
  | nil => by_cases h : k = a <;> simp [Memory.erase, Memory.read, h]
  | cons c rest ih =>
    obtain ⟨j, b⟩ := c
    have step : Memory.erase ((j, b) :: rest) a = if j = a then Memory.erase rest a else (j, b) :: Memory.erase rest a := by
      by_cases hj : j = a <;> simp [Memory.erase, hj]
    rw [step]
    by_cases hj : j = a
    · rw [if_pos hj, ih]
      by_cases hk : k = a
      · simp [hk]
      · have : ¬j = k := fun e => hk (e ▸ hj)
        simp [Memory.read, hk, this]
    · rw [if_neg hj]
      by_cases hk : j = k
      · have : ¬k = a := fun e => hj (hk.trans e)
        simp [Memory.read, hk, this]
      · simp [Memory.read, hk, ih]

theorem Memory.read_insert (p : Params) (m : Memory) (a : Nat) (b : Byte) (k : Nat) :
    Memory.read p (Memory.insert m a b) k = if k = a then b else Memory.read p m k := by
  induction m with
  | nil => simp [Memory.insert, Memory.read, eq_comm]
  | cons c rest ih =>
    obtain ⟨j, d⟩ := c
    simp only [Memory.insert]
    split
    · simp [Memory.read, eq_comm (a := a)]
    · split
      · next _ h => subst h; by_cases hk : k = a <;> simp [Memory.read, hk, Ne.symm]
      · next h1 h2 =>
        by_cases hk : j = k
        · have : ¬k = a := fun e => h2 (e.symm.trans hk.symm)
          simp [Memory.read, hk, this]
        · simpa [Memory.read, hk] using ih

/-- A read returns the byte last written there, and every other address reads as before. -/
theorem Memory.read_write (p : Params) (m : Memory) (a : Nat) (b : Byte) (k : Nat) :
    Memory.read p (Memory.write p m a b) k = if k = a then b else Memory.read p m k := by
  unfold Memory.write
  split
  · next h => rw [Memory.read_erase, h]
  · exact Memory.read_insert p m a b k

/-- After a list of bytes is written from `a`, its `j`-th byte reads at `a + j`, and every other address reads as before. -/
theorem Memory.read_writeList (p : Params) (m : Memory) (a : Nat) (bs : List Byte) (k : Nat) :
    Memory.read p (Memory.writeList p m a bs) k =
      if a ≤ k then bs[k - a]?.getD (Memory.read p m k) else Memory.read p m k := by
  induction bs generalizing m a with
  | nil => simp [Memory.writeList]
  | cons b rest ih =>
    rw [Memory.writeList, ih, Memory.read_write]
    rcases Nat.lt_trichotomy k a with h | h | h
    · simp [show ¬a + 1 ≤ k by omega, show ¬a ≤ k by omega, h.ne]
    · subst h; simp
    · obtain ⟨d, rfl⟩ : ∃ d, k = a + 1 + d := ⟨k - (a + 1), by omega⟩
      simp [show ¬a + 1 + d = a by omega, show a ≤ a + 1 + d by omega, show a + 1 + d - a = d + 1 by omega]

/-! ### The canonical form -/

theorem Memory.wf_nil (p : Params) : Memory.wf p [] := ⟨.nil, by simp⟩

theorem Memory.wf_erase {p : Params} {m : Memory} (h : m.wf p) (a : Nat) : (Memory.erase m a).wf p :=
  ⟨h.1.filter _, fun c hc => h.2 c (List.mem_of_mem_filter hc)⟩

theorem Memory.mem_insert {m : Memory} {a : Nat} {b : Byte} {c : Host.Cell} (h : c ∈ Memory.insert m a b) :
    c = (a, b) ∨ c ∈ m := by
  induction m with
  | nil => simpa [Memory.insert] using h
  | cons d rest ih =>
    obtain ⟨j, e⟩ := d
    simp only [Memory.insert] at h
    split at h
    · simpa using h
    · split at h
      · rcases List.mem_cons.1 h with h | h
        · exact .inl h
        · exact .inr (List.mem_cons_of_mem _ h)
      · rcases List.mem_cons.1 h with h | h
        · exact .inr (h ▸ List.mem_cons_self)
        · exact (ih h).imp_right (List.mem_cons_of_mem _)

theorem Memory.sorted_insert {m : Memory} (h : m.Pairwise fun c d => c.1 < d.1) (a : Nat) (b : Byte) :
    (Memory.insert m a b).Pairwise fun c d => c.1 < d.1 := by
  induction m with
  | nil => simp [Memory.insert]
  | cons d rest ih =>
    obtain ⟨j, e⟩ := d
    rw [List.pairwise_cons] at h
    simp only [Memory.insert]
    split
    · next hlt =>
      refine List.pairwise_cons.2 ⟨?_, List.pairwise_cons.2 h⟩
      rintro c hc
      rcases List.mem_cons.1 hc with rfl | hc
      · exact hlt
      · exact hlt.trans (h.1 c hc)
    · split
      · next _ heq => exact List.pairwise_cons.2 ⟨fun c hc => heq ▸ h.1 c hc, h.2⟩
      · next h1 h2 =>
        refine List.pairwise_cons.2 ⟨fun c hc => ?_, ih h.2⟩
        rcases Memory.mem_insert hc with rfl | hc
        · show j < a; omega
        · exact h.1 c hc

/-- Every write inside the memory keeps the canonical form. -/
theorem Memory.wf_write {p : Params} {m : Memory} (h : m.wf p) {a : Nat} (ha : a < memSize) (b : Byte) :
    (Memory.write p m a b).wf p := by
  unfold Memory.write
  split
  · exact Memory.wf_erase h a
  · next hb =>
    refine ⟨Memory.sorted_insert h.1 a b, fun c hc => ?_⟩
    rcases Memory.mem_insert hc with rfl | hc
    · exact ⟨ha, hb⟩
    · exact h.2 c hc

/-- A canonical memory lists an address exactly when it reads as something other than its unlisted value. -/
theorem Memory.read_of_not_mem {p : Params} {m : Memory} {a : Nat} (h : ∀ c ∈ m, c.1 ≠ a) :
    Memory.read p m a = Memory.unlisted p a := by
  induction m with
  | nil => rfl
  | cons c rest ih =>
    obtain ⟨j, b⟩ := c
    have hj : j ≠ a := h _ List.mem_cons_self
    simpa [Memory.read, hj] using ih fun d hd => h d (List.mem_cons_of_mem _ hd)

theorem Memory.read_of_mem {p : Params} {m : Memory} (h : m.Pairwise fun c d => c.1 < d.1) {a : Nat} {b : Byte}
    (hm : (a, b) ∈ m) : Memory.read p m a = b := by
  induction m with
  | nil => cases hm
  | cons c rest ih =>
    obtain ⟨j, d⟩ := c
    rw [List.pairwise_cons] at h
    rcases List.mem_cons.1 hm with e | hm
    · obtain ⟨rfl, rfl⟩ := Prod.mk.inj e
      simp [Memory.read]
    · have : j ≠ a := (h.1 _ hm).ne
      simpa [Memory.read, this] using ih h.2 hm

/-- A list of bytes written inside the memory keeps the canonical form. -/
theorem Memory.wf_writeList {p : Params} {m : Memory} (h : m.wf p) {a : Nat} (bs : List Byte)
    (ha : a + bs.length ≤ memSize) : (Memory.writeList p m a bs).wf p := by
  induction bs generalizing m a with
  | nil => exact h
  | cons b rest ih =>
    rw [List.length_cons] at ha
    exact ih (Memory.wf_write h (by omega) b) (by omega)

/-- A write lists no address but its own anew. -/
theorem Memory.mem_write {p : Params} {m : Memory} {a : Nat} {b : Byte} {c : Host.Cell}
    (h : c ∈ Memory.write p m a b) : c = (a, b) ∨ c ∈ m := by
  unfold Memory.write at h
  split at h
  · exact .inr (List.mem_of_mem_filter h)
  · exact Memory.mem_insert h

/-- A list of writes lists no address but its own anew. -/
theorem Memory.mem_writeList {p : Params} {m : Memory} {a : Nat} {bs : List Byte} {c : Host.Cell}
    (h : c ∈ Memory.writeList p m a bs) : (a ≤ c.1 ∧ c.1 < a + bs.length) ∨ c ∈ m := by
  induction bs generalizing m a with
  | nil => exact .inr h
  | cons b rest ih =>
    rw [List.length_cons]
    rcases ih h with h | h
    · exact .inl (by omega)
    · rcases Memory.mem_write h with rfl | h
      · exact .inl (by simp)
      · exact .inr h

/-! ### On the state -/

section onState
variable (s : State) (a k : Nat) (b : Byte) (bs : List Byte)

theorem readByte_writeByte : (s.writeByte a b).readByte k = if k = a then b else s.readByte k :=
  Memory.read_write s.params s.memory a b k

theorem readByte_writeBytes :
    (s.writeBytes a bs).readByte k = if a ≤ k then bs[k - a]?.getD (s.readByte k) else s.readByte k :=
  Memory.read_writeList s.params s.memory a bs k

/-- Bytes outside those written read as before. -/
theorem readByte_writeBytes_outside (h : k < a ∨ a + bs.length ≤ k) :
    (s.writeBytes a bs).readByte k = s.readByte k := by
  rw [readByte_writeBytes]
  split
  · rw [List.getElem?_eq_none (by omega)]; rfl
  · rfl

/-- The bytes written read back. -/
theorem readByte_writeBytes_inside (j : Nat) (h : j < bs.length) : (s.writeBytes a bs).readByte (a + j) = bs[j] := by
  simp [readByte_writeBytes, h]

/-- Equal memories under equal parameters read the same. -/
theorem readByte_congr {s t : State} (hm : t.memory = s.memory) (hp : t.params = s.params) (a : Nat) :
    t.readByte a = s.readByte a := by
  simp only [State.readByte, hm, hp]

end onState

/-! ### The checks (20_memory.md R205, R206) -/

theorem readCheck_eq_none {a n : Nat} : readCheck a n = none ↔ ∀ k < n, a + k < 4096 := by
  unfold readCheck memSize
  split
  · next h => simp only [true_iff]; intro k hk; omega
  · next h =>
    simp only [reduceCtorEq, false_iff, not_forall]
    exact ⟨n - 1, by omega, by omega⟩

theorem readCheck_cases (a n : Nat) : readCheck a n = none ∨ readCheck a n = some .memOutOfRange := by
  unfold readCheck; split <;> simp

theorem inFont_iff {a : Nat} : inFont a = true ↔ 0x50 ≤ a ∧ a < 0x140 := by
  rw [inFont, Bool.and_eq_true, decide_eq_true_iff, decide_eq_true_iff]; rfl

theorem touchesFont_iff {a n : Nat} : touchesFont a n = true ↔ ∃ k < n, 0x50 ≤ a + k ∧ a + k < 0x140 := by
  simp only [touchesFont, List.any_eq_true, List.mem_range, inFont_iff]

/-- The checks of a set of writes pass exactly when every address exists and none is a protected font byte. -/
theorem writeCheck_eq_none {p : Params} {a n : Nat} :
    writeCheck p a n = none ↔
      (∀ k < n, a + k < 4096) ∧ (p.fontWriteFaults = true → ∀ k < n, ¬(0x50 ≤ a + k ∧ a + k < 0x140)) := by
  rw [writeCheck, ← readCheck_eq_none]
  rcases readCheck_cases a n with h | h
  · rw [h]
    by_cases hf : p.fontWriteFaults = true <;> by_cases ht : touchesFont a n = true
    · simpa [hf, ht] using touchesFont_iff.1 ht
    · have := mt touchesFont_iff.2 ht
      push Not at this
      simpa [hf, ht] using this
    · simp [hf]
    · simp [hf]
  · simp [h]

/-- One address past the memory is enough for MemOutOfRange. -/
theorem readCheck_eq_some {a n : Nat} (hn : n ≠ 0) (h : 4096 < a + n) : readCheck a n = some .memOutOfRange := by
  rw [readCheck, if_neg (by rw [memSize]; omega)]

/-- MemOutOfRange comes first. -/
theorem writeCheck_eq_mem {p : Params} {a n : Nat} (hn : n ≠ 0) (h : 4096 < a + n) :
    writeCheck p a n = some .memOutOfRange := by
  rw [writeCheck, readCheck_eq_some hn h]

/-- FontWrite, where every address exists. -/
theorem writeCheck_eq_font {p : Params} {a n : Nat} (h : ∀ k < n, a + k < 4096) (hf : p.fontWriteFaults = true)
    (hk : ∃ k < n, 0x50 ≤ a + k ∧ a + k < 0x140) : writeCheck p a n = some .fontWrite := by
  rw [writeCheck, readCheck_eq_none.2 h]
  simp [hf, touchesFont_iff.2 hk]

end Sys2Proof.Machine
end

