-- ==== Sys2Proof/Laws/Operands.lean ====
section
/-! SUPPORT. The operand forms as numbers and lists (30_encoding.md R302; 44_index_memory.md R804 to R806; 46_keys_timers.md
R1006). -/

namespace Sys2Proof.Machine

open Sys2Proof

@[simp] theorem addrWord_toNat (nnn : Addr12) : (addrWord nnn).toNat = nnn.toNat := by
  have := nnn.isLt
  rw [addrWord, BitVec.toNat_setWidth]; omega

@[simp] theorem byteWord_toNat (b : Byte) : (byteWord b).toNat = b.toNat := by
  have := b.isLt
  rw [byteWord, BitVec.toNat_setWidth]; omega

theorem addrX_val (nnn : Addr12) : (addrX nnn).val = nnn.toNat / 0x100 := by
  have := nnn.isLt
  show (nnn.extractLsb' 8 4).toNat = _
  rw [BitVec.extractLsb'_toNat, Nat.shiftRight_eq_div_pow]; omega

/-- The increment of I after Fx55 and Fx65, by platform (R805). -/
theorem incI_eq (s : State) (x : VReg) :
    s.incI x = if s.platform = .chip8 then x.val + 1 else if s.platform = .schip10 then x.val else 0 := by
  rw [State.incI]; cases s.platform <;> rfl

/-- The source of a shift, by platform (43_alu.md R710, R712). -/
theorem shiftSource_eq (s : State) (x y : VReg) :
    s.shiftSource x y = if s.platform = .chip8 then s.v[y] else s.v[x] := by
  rw [State.shiftSource]; cases s.platform <;> rfl

/-- The scroll unit (45_framebuffer_draw.md R908). -/
theorem scrollScale_eq (s : State) :
    s.scrollScale = if s.hiRes then 1 else if s.params.lowResScrollScale = .one then 1 else 2 := by
  unfold State.scrollScale; cases s.params.lowResScrollScale <;> rfl

@[simp] theorem regsUpTo_length (s : State) (x : VReg) : (s.regsUpTo x).length = x.val + 1 := by
  have := x.isLt
  simp [State.regsUpTo]

theorem regsUpTo_getElem? (s : State) {x k : VReg} (h : k ≤ x) : (s.regsUpTo x)[k.val]? = some s.v[k] := by
  have := k.isLt
  have : k.val ≤ x.val := h
  rw [State.regsUpTo, List.getElem?_take_of_lt (by omega)]
  simp

/-- The decimal digits of a byte (R804). -/
theorem bcdDigits_toNat (b : Byte) : (bcdDigits b).map BitVec.toNat = [b.toNat / 100, b.toNat / 10 % 10, b.toNat % 10] := by
  revert b; decide

theorem anyKey_iff (s : State) : s.anyKey = true ↔ ∃ k : Fin 16, s.keypad[k] = true := by
  rw [State.anyKey, List.any_eq_true]
  constructor
  · rintro ⟨b, hb, e⟩
    obtain ⟨k, hk, rfl⟩ := List.getElem_of_mem hb
    exact ⟨⟨k, by simpa using hk⟩, by simpa using e⟩
  · rintro ⟨k, hk⟩
    exact ⟨_, List.getElem_mem (show k.val < s.keypad.toList.length by simp), by simpa using hk⟩

/-- The first key down is the least one. -/
theorem firstKey_of_least (s : State) (k : Fin 16) (h : s.keypad[k] = true)
    (hl : ∀ j : Fin 16, j < k → s.keypad[j] = false) : s.firstKey = some k.val := by
  rw [State.firstKey, List.findIdx?_eq_some_iff_getElem]
  refine ⟨by simp, by simpa using h, fun j hj => ?_⟩
  have := hl ⟨j, by have := k.isLt; omega⟩ hj
  simpa using this

theorem firstKey_of_none (s : State) (h : ¬∃ k : Fin 16, s.keypad[k] = true) : s.firstKey = none := by
  rw [State.firstKey, List.findIdx?_eq_none_iff]
  intro b hb
  obtain ⟨k, hk, rfl⟩ := List.getElem_of_mem hb
  have : ¬s.keypad[k]'(by simpa using hk) = true := fun e => h ⟨⟨k, by simpa using hk⟩, e⟩
  simpa using this

end Sys2Proof.Machine
end

