-- ==== Sys2Proof/Laws/PerInstr.lean ====
section
/-! SUPPORT. Statements made for every instruction, one lemma per constructor. The family RoundTrip: the decoder gives a
well-formed instruction back from the word the encoder writes for it. -/

namespace Sys2Proof.Laws.RoundTrip

open Sys2Proof

/-- The decoder reads back the encoder's word. -/
def Statement (i : Instr) : Prop := i.wellFormed = true → decodeOp (encode i) = some i

theorem cls : Statement .cls := fun _ => by decide
theorem scd (n : Fin 16) : Statement (.scd n) := fun _ => by
  revert n; decide
theorem scr : Statement .scr := fun _ => by decide
theorem scl : Statement .scl := fun _ => by decide
theorem ret : Statement .ret := fun _ => by decide
theorem exitProgram : Statement .exitProgram := fun _ => by decide
theorem low : Statement .low := fun _ => by decide
theorem high : Statement .high := fun _ => by decide
theorem sys (nnn : Addr12) : Statement (.sys nnn) := fun h => by
  have taken (w : Word) (hw : packNnn 0 nnn = w) : nnn = opNnn w := by rw [← hw, opNnn_packNnn]
  have high : (packNnn 0 nnn).extractLsb' 4 12 = 0x00C → nnn.extractLsb' 4 8 = 0x0C := fun e => by
    have e := congrArg BitVec.toNat e
    rw [highTwelve_toNat, packNnn_toNat] at e
    apply BitVec.eq_of_toNat_eq
    rw [BitVec.extractLsb'_toNat, Nat.shiftRight_eq_div_pow]
    simp at e ⊢
    omega
  have free : sysTaken nnn = false := by simpa [Instr.wellFormed] using h
  simp only [sysTaken, Bool.or_eq_false_iff, beq_eq_false_iff_ne, ne_eq] at free
  obtain ⟨⟨⟨⟨⟨⟨⟨h1, h2⟩, h3⟩, h4⟩, h5⟩, h6⟩, h7⟩, h8⟩ := free
  have group0 : decodeOp (packNnn 0 nnn) = some (decodeGroup0 (packNnn 0 nnn)) := by
    rw [decodeOp, opHi_packNnn]; rfl
  rw [encode, group0, decodeGroup0, if_neg (mt (taken 0x00E0) h1), if_neg (mt high h2), if_neg (mt (taken 0x00FB) h3),
    if_neg (mt (taken 0x00FC) h4), if_neg (mt (taken 0x00EE) h5), if_neg (mt (taken 0x00FD) h6),
    if_neg (mt (taken 0x00FE) h7), if_neg (mt (taken 0x00FF) h8), opNnn_packNnn]
theorem jp (nnn : Addr12) : Statement (.jp nnn) := fun _ => by simp [decodeOp, encode]
theorem call (nnn : Addr12) : Statement (.call nnn) := fun _ => by simp [decodeOp, encode]
theorem seImm (x : VReg) (kk : Byte) : Statement (.seImm x kk) := fun _ => by simp [decodeOp, encode]
theorem sneImm (x : VReg) (kk : Byte) : Statement (.sneImm x kk) := fun _ => by simp [decodeOp, encode]
theorem seReg (x y : VReg) : Statement (.seReg x y) := fun _ => by simp [decodeOp, encode]
theorem ldImm (x : VReg) (kk : Byte) : Statement (.ldImm x kk) := fun _ => by simp [decodeOp, encode]
theorem addImm (x : VReg) (kk : Byte) : Statement (.addImm x kk) := fun _ => by simp [decodeOp, encode]
theorem ldReg (x y : VReg) : Statement (.ldReg x y) := fun _ => by simp [decodeOp, encode, decodeGroup8]
theorem orReg (x y : VReg) : Statement (.orReg x y) := fun _ => by simp [decodeOp, encode, decodeGroup8]
theorem andReg (x y : VReg) : Statement (.andReg x y) := fun _ => by simp [decodeOp, encode, decodeGroup8]
theorem xorReg (x y : VReg) : Statement (.xorReg x y) := fun _ => by simp [decodeOp, encode, decodeGroup8]
theorem addReg (x y : VReg) : Statement (.addReg x y) := fun _ => by simp [decodeOp, encode, decodeGroup8]
theorem subReg (x y : VReg) : Statement (.subReg x y) := fun _ => by simp [decodeOp, encode, decodeGroup8]
theorem shrReg (x y : VReg) : Statement (.shrReg x y) := fun _ => by simp [decodeOp, encode, decodeGroup8]
theorem subnReg (x y : VReg) : Statement (.subnReg x y) := fun _ => by simp [decodeOp, encode, decodeGroup8]
theorem shlReg (x y : VReg) : Statement (.shlReg x y) := fun _ => by simp [decodeOp, encode, decodeGroup8]
theorem sneReg (x y : VReg) : Statement (.sneReg x y) := fun _ => by simp [decodeOp, encode]
theorem ldI (nnn : Addr12) : Statement (.ldI nnn) := fun _ => by simp [decodeOp, encode]
theorem jpV0 (nnn : Addr12) : Statement (.jpV0 nnn) := fun _ => by simp [decodeOp, encode]
theorem rnd (x : VReg) (kk : Byte) : Statement (.rnd x kk) := fun _ => by simp [decodeOp, encode]
theorem drwZero (x y : VReg) : Statement (.drwZero x y) := fun _ => by simp [decodeOp, encode]
theorem drw (x y : VReg) (n : Fin 16) : Statement (.drw x y n) := fun h => by
  have : n ≠ 0 := by simpa [Instr.wellFormed] using h
  simp [decodeOp, encode, this]
theorem skp (x : VReg) : Statement (.skp x) := fun _ => by simp [decodeOp, encode, decodeGroupE]
theorem sknp (x : VReg) : Statement (.sknp x) := fun _ => by simp [decodeOp, encode, decodeGroupE]
theorem ldVxDt (x : VReg) : Statement (.ldVxDt x) := fun _ => by simp [decodeOp, encode, decodeGroupF]
theorem ldVxKey (x : VReg) : Statement (.ldVxKey x) := fun _ => by simp [decodeOp, encode, decodeGroupF]
theorem ldDtVx (x : VReg) : Statement (.ldDtVx x) := fun _ => by simp [decodeOp, encode, decodeGroupF]
theorem ldStVx (x : VReg) : Statement (.ldStVx x) := fun _ => by simp [decodeOp, encode, decodeGroupF]
theorem addI (x : VReg) : Statement (.addI x) := fun _ => by simp [decodeOp, encode, decodeGroupF]
theorem ldFont (x : VReg) : Statement (.ldFont x) := fun _ => by simp [decodeOp, encode, decodeGroupF]
theorem ldHiFont (x : VReg) : Statement (.ldHiFont x) := fun _ => by simp [decodeOp, encode, decodeGroupF]
theorem ldBcd (x : VReg) : Statement (.ldBcd x) := fun _ => by simp [decodeOp, encode, decodeGroupF]
theorem storeRegs (x : VReg) : Statement (.storeRegs x) := fun _ => by simp [decodeOp, encode, decodeGroupF]
theorem loadRegs (x : VReg) : Statement (.loadRegs x) := fun _ => by simp [decodeOp, encode, decodeGroupF]
theorem saveHp48 (x : VReg) : Statement (.saveHp48 x) := fun _ => by simp [decodeOp, encode, decodeGroupF]
theorem loadHp48 (x : VReg) : Statement (.loadHp48 x) := fun _ => by simp [decodeOp, encode, decodeGroupF]

end Sys2Proof.Laws.RoundTrip
end

