-- ==== Sys2Proof/Laws/Screen.lean ====
section
/-! SUPPORT. What the framebuffer primitives do to each physical pixel (45_framebuffer_draw.md R900 to R909). -/

namespace Sys2Proof.Machine

open Sys2Proof

/-! ### Pixels, rows and bytes -/

theorem Screen.pix_eq (scr : Screen) {r : Nat} (hr : r < 64) (c : Nat) : scr.pix r c = scr[r].getMsbD c := by
  simp [Screen.pix, hr]

theorem Screen.pix_clear (r c : Nat) : Screen.clear.pix r c = false := by
  by_cases h : r < 64 <;> simp [Screen.pix, Screen.clear, h]

theorem Screen.pix_outside_cols (scr : Screen) (r : Nat) {c : Nat} (h : 128 ≤ c) : scr.pix r c = false := by
  simp only [Screen.pix]
  exact BitVec.getMsbD_of_ge _ _ h

/-- Two screens with the same pixels are the same data. -/
theorem Screen.ext_pix {a b : Screen} (h : ∀ r c, r < 64 → c < 128 → a.pix r c = b.pix r c) : a = b := by
  refine Vector.ext fun r hr => BitVec.eq_of_getMsbD_eq fun c hc => ?_
  have := h r c hr hc
  rwa [Screen.pix_eq a hr, Screen.pix_eq b hr] at this

/-- Bit `7 - (c mod 8)` of byte `16 r + c div 8` is pixel (r, c) (R900). -/
theorem Screen.byte_getLsbD (scr : Screen) (r : Nat) {c : Nat} (hc : c < 128) :
    (scr.byte (16 * r + c / 8)).getLsbD (7 - c % 8) = scr.pix r c := by
  have hq : (16 * r + c / 8) / 16 = r := by omega
  have hm : (16 * r + c / 8) % 16 = c / 8 := by omega
  rw [Screen.byte, hq, hm, Screen.pix, BitVec.getLsbD_extractLsb', BitVec.getMsbD]
  have h1 : 7 - c % 8 < 8 := by omega
  have h2 : 120 - 8 * (c / 8) + (7 - c % 8) = 128 - 1 - c := by omega
  simp [h1, hc, h2]

theorem getMsbD_rowSet (row : Row) {c d : Nat} (hc : c < 128) (hd : d < 128) (b : Bool) :
    (rowSet row c b).getMsbD d = if d = c then b else row.getMsbD d := by
  have bit : ((1 : Row) <<< (127 - c)).getMsbD d = decide (d = c) := by
    rw [BitVec.getMsbD, BitVec.getLsbD_shiftLeft]
    rcases Nat.lt_trichotomy d c with h | h | h
    · have : 128 - 1 - d - (127 - c) ≠ 0 := by omega
      simp [h.ne, hd, this, BitVec.getLsbD_one]
    · subst h; simp [hd, show 127 - d < 128 by omega]
    · have : 128 - 1 - d < 127 - c := by omega
      simp [h.ne', this]
  cases b
  · simp only [rowSet, Bool.false_eq_true, if_false, BitVec.getMsbD_and, BitVec.getMsbD_not, bit]
    by_cases h : d = c <;> simp [h, hd]
  · simp only [rowSet, if_true, BitVec.getMsbD_or, bit]
    by_cases h : d = c <;> simp [h]

/-- SetPix changes exactly one pixel (R902). -/
theorem Screen.pix_setPix (scr : Screen) {r c r' c' : Nat} (hr : r < 64) (hc : c < 128) (hr' : r' < 64)
    (hc' : c' < 128) (b : Bool) :
    (scr.setPix r c b).pix r' c' = if r' = r ∧ c' = c then b else scr.pix r' c' := by
  rw [Screen.setPix, dif_pos ⟨hr, hc⟩, Screen.pix_eq _ hr', Screen.pix_eq _ hr', Vector.getElem_set hr]
  by_cases h : r = r'
  · subst h; simp [getMsbD_rowSet _ hc hc']
  · have : ¬r' = r := fun e => h e.symm
    simp [h, this]

/-! ### Scrolling (R905 to R907) -/

theorem Screen.pix_scrollDown (scr : Screen) (k : Nat) {r : Nat} (hr : r < 64) (c : Nat) :
    (scr.scrollDown k).pix r c = if k ≤ r then scr.pix (r - k) c else false := by
  rw [Screen.pix_eq _ hr, Screen.scrollDown, Vector.getElem_ofFn]
  by_cases h : k ≤ r
  · simp [h, Screen.pix, show r - k < 64 by omega]
  · simp [h]

theorem Screen.pix_scrollRight (scr : Screen) (k : Nat) {r c : Nat} (hr : r < 64) (hc : c < 128) :
    (scr.scrollRight k).pix r c = if k ≤ c then scr.pix r (c - k) else false := by
  rw [Screen.pix_eq _ hr, Screen.pix_eq _ hr, Screen.scrollRight, Vector.getElem_map, BitVec.getMsbD_ushiftRight]
  by_cases h : k ≤ c
  · simp [h, hc, show ¬c < k by omega]
  · simp [h, show c < k by omega]

theorem Screen.pix_scrollLeft (scr : Screen) (k : Nat) {r : Nat} (hr : r < 64) (c : Nat) :
    (scr.scrollLeft k).pix r c = if c + k < 128 then scr.pix r (c + k) else false := by
  rw [Screen.pix_eq _ hr, Screen.pix_eq _ hr, Screen.scrollLeft, Vector.getElem_map, BitVec.getMsbD_shiftLeft]
  by_cases h : c + k < 128
  · simp [h]
  · simp [h, BitVec.getMsbD_of_ge _ _ (show 128 ≤ c + k by omega)]

/-! ### Plotting (R909)

Plotting a list of distinct physical pixels XORs each of them and reports whether one was lit before. -/

theorem plotPixel_foldl (l : List (Nat × Nat)) (acc : Screen × Bool) (hn : l.Nodup)
    (hl : ∀ p ∈ l, p.1 < 64 ∧ p.2 < 128) :
    (∀ r c, r < 64 → c < 128 → (l.foldl plotPixel acc).1.pix r c = (acc.1.pix r c ^^ decide ((r, c) ∈ l))) ∧
      (l.foldl plotPixel acc).2 = (acc.2 || l.any fun p => acc.1.pix p.1 p.2) := by
  induction l generalizing acc with
  | nil => simp
  | cons p rest ih =>
    obtain ⟨hp, hrest⟩ := List.nodup_cons.1 hn
    obtain ⟨hp1, hp2⟩ := hl p List.mem_cons_self
    obtain ⟨ih1, ih2⟩ := ih (plotPixel acc p) hrest fun q hq => hl q (List.mem_cons_of_mem _ hq)
    refine ⟨fun r c hr hc => ?_, ?_⟩
    · rw [List.foldl_cons, ih1 r c hr hc, plotPixel, Screen.pix_setPix _ hp1 hp2 hr hc]
      by_cases h : r = p.1 ∧ c = p.2
      · have hpc : (r, c) = p := Prod.ext h.1 h.2
        have : (r, c) ∉ rest := hpc ▸ hp
        obtain ⟨rfl, rfl⟩ := h
        simp [this]
      · have : (r, c) ≠ p := fun e => h ⟨congrArg Prod.fst e, congrArg Prod.snd e⟩
        simp [h, this]
    · rw [List.foldl_cons, ih2]
      have : (rest.any fun q => (plotPixel acc p).1.pix q.1 q.2) = rest.any fun q => acc.1.pix q.1 q.2 := by
        rw [Bool.eq_iff_iff, List.any_eq_true, List.any_eq_true]
        refine exists_congr fun q => and_congr_right fun hq => ?_
        obtain ⟨hq1, hq2⟩ := hl q (List.mem_cons_of_mem _ hq)
        rw [plotPixel, Screen.pix_setPix _ hp1 hp2 hq1 hq2, if_neg]
        exact fun e => hp (Prod.ext e.1 e.2 ▸ hq)
      rw [this]
      simp [plotPixel, Bool.or_assoc]

/-- The physical pixels a list of logical pixels covers, in the order they are plotted. -/
def coveredPixels (ds : Nat) (l : List (Nat × Nat)) : List (Nat × Nat) := l.flatMap fun p => blockPixels ds p.1 p.2

theorem plot_foldl (ds : Nat) (l : List (Nat × Nat)) (acc : Screen × Bool) :
    l.foldl (plot ds) acc = (coveredPixels ds l).foldl plotPixel acc := by
  induction l generalizing acc with
  | nil => rfl
  | cons p rest ih => rw [List.foldl_cons, ih, coveredPixels, coveredPixels, List.flatMap_cons, List.foldl_append]; rfl

/-- The physical pixels of a logical one are those whose coordinates scale down to it (R903). -/
theorem mem_blockPixels {ds : Nat} (hds : 0 < ds) {lx ly r c : Nat} :
    (r, c) ∈ blockPixels ds lx ly ↔ r / ds = ly ∧ c / ds = lx := by
  simp only [blockPixels, List.mem_flatMap, List.mem_map, List.mem_range, Prod.mk.injEq]
  constructor
  · rintro ⟨dr, hdr, dc, hdc, rfl, rfl⟩
    simp [Nat.mul_add_div hds, Nat.div_eq_of_lt hdr, Nat.div_eq_of_lt hdc]
  · rintro ⟨rfl, rfl⟩
    exact ⟨r % ds, Nat.mod_lt _ hds, c % ds, Nat.mod_lt _ hds, Nat.div_add_mod r ds, Nat.div_add_mod c ds⟩

theorem nodup_blockPixels {ds : Nat} (lx ly : Nat) : (blockPixels ds lx ly).Nodup := by
  refine List.nodup_flatMap.2 ⟨fun dr _ => ?_, ?_⟩
  · exact List.nodup_range.map fun a b e => by simpa using e
  · refine List.nodup_range.pairwise_of_forall_ne ?_
    intro a _ b _ hab p hpa hpb
    simp only [List.mem_map] at hpa hpb
    obtain ⟨x, -, rfl⟩ := hpa
    obtain ⟨y, -, hy⟩ := hpb
    simp only [Prod.mk.injEq] at hy
    omega

theorem mem_coveredPixels {ds : Nat} (hds : 0 < ds) {l : List (Nat × Nat)} {r c : Nat} :
    (r, c) ∈ coveredPixels ds l ↔ (c / ds, r / ds) ∈ l := by
  simp only [coveredPixels, List.mem_flatMap, mem_blockPixels hds]
  constructor
  · rintro ⟨p, hp, h1, h2⟩; rw [h1, h2]; exact hp
  · exact fun h => ⟨_, h, rfl, rfl⟩

theorem nodup_coveredPixels {ds : Nat} (hds : 0 < ds) {l : List (Nat × Nat)} (h : l.Nodup) :
    (coveredPixels ds l).Nodup := by
  refine List.nodup_flatMap.2 ⟨fun p _ => nodup_blockPixels _ _, ?_⟩
  refine h.pairwise_of_forall_ne ?_
  rintro p - q - hpq ⟨r, c⟩ hp hq
  rw [mem_blockPixels hds] at hp hq
  exact hpq (Prod.ext (hp.2.symm.trans hq.2) (hp.1.symm.trans hq.1))

/-! ### Sprites (R910, R911) -/

theorem mem_litInRow {w : Nat} {cols ox ly lx ly' : Nat} {bits : BitVec w} :
    (lx, ly') ∈ litInRow cols ox ly bits ↔
      ly' = ly ∧ ox ≤ lx ∧ lx < ox + w ∧ lx < cols ∧ bits.getMsbD (lx - ox) = true := by
  simp only [litInRow, List.mem_map, List.mem_filter, List.mem_range, Bool.and_eq_true, decide_eq_true_iff, Prod.mk.injEq]
  constructor
  · rintro ⟨c, ⟨hc, hcols, hb⟩, rfl, rfl⟩
    simpa [Nat.add_sub_cancel_left] using ⟨hc, hcols, hb⟩
  · rintro ⟨rfl, h1, h2, h3, h4⟩
    exact ⟨lx - ox, ⟨by omega, by omega, h4⟩, by omega, rfl⟩

/-- The lit logical pixels of a sprite: bit `w - 1 - j` of row `k` at column `ox + j` of logical row `oy + k`. -/
theorem mem_litInSprite {w : Nat} {cols ox oy lx ly : Nat} {sprite : List (BitVec w)} :
    (lx, ly) ∈ litInSprite cols ox oy sprite ↔
      oy ≤ ly ∧ ox ≤ lx ∧ lx < ox + w ∧ lx < cols ∧
        ∃ bits, sprite[ly - oy]? = some bits ∧ bits.getMsbD (lx - ox) = true := by
  induction sprite generalizing oy with
  | nil => simp [litInSprite]
  | cons b rest ih =>
    rw [litInSprite, List.mem_append, mem_litInRow, ih]
    rcases Nat.lt_trichotomy ly oy with h | h | h
    · simp [show ¬oy ≤ ly by omega, show ¬oy + 1 ≤ ly by omega, h.ne]
    · subst h; simp
    · obtain ⟨d, rfl⟩ : ∃ d, ly = oy + 1 + d := ⟨ly - (oy + 1), by omega⟩
      simp [show oy ≤ oy + 1 + d by omega, show oy + 1 + d ≠ oy by omega, show oy + 1 + d - oy = d + 1 by omega]

theorem nodup_litInSprite {w : Nat} (cols ox oy : Nat) (sprite : List (BitVec w)) :
    (litInSprite cols ox oy sprite).Nodup := by
  induction sprite generalizing oy with
  | nil => exact .nil
  | cons b rest ih =>
    refine List.nodup_append'.2 ⟨?_, ih _, ?_⟩
    · exact (List.nodup_range.filter _).map fun a b e => by simpa using e
    · rintro ⟨lx, ly⟩ h1 h2
      rw [mem_litInRow] at h1
      rw [mem_litInSprite] at h2
      omega

/-- Whether a sprite has a lit bit on the logical pixel that covers physical pixel (r, c). -/
def spriteCovers {w : Nat} (hiRes : Bool) (ox oy : Nat) (sprite : List (BitVec w)) (r c : Nat) : Bool :=
  decide ((c / drawScale hiRes, r / drawScale hiRes) ∈ litInSprite (logicalCols hiRes) ox oy sprite)

theorem drawScale_pos (hiRes : Bool) : 0 < drawScale hiRes := by cases hiRes <;> decide

/-- A drawn sprite (R910): every physical pixel it covers is XORed, every other one keeps its value, and the collision bit
says whether a covered pixel was lit. The rows must lie on the screen, which the clipped row count of R910 ensures. -/
theorem drawSprite_spec {w : Nat} (hiRes : Bool) (ox oy : Nat) (sprite : List (BitVec w)) (scr : Screen)
    (h : oy + sprite.length ≤ logicalRows hiRes) :
    (∀ r c, r < 64 → c < 128 →
      (drawSprite hiRes ox oy sprite scr).1.pix r c = (scr.pix r c ^^ spriteCovers hiRes ox oy sprite r c)) ∧
    ((drawSprite hiRes ox oy sprite scr).2 = true ↔
      ∃ r c, r < 64 ∧ c < 128 ∧ spriteCovers hiRes ox oy sprite r c = true ∧ scr.pix r c = true) := by
  have hpos := drawScale_pos hiRes
  have inGrid : ∀ p ∈ coveredPixels (drawScale hiRes) (litInSprite (logicalCols hiRes) ox oy sprite),
      p.1 < 64 ∧ p.2 < 128 := by
    rintro ⟨r, c⟩ hp
    rw [mem_coveredPixels hpos, mem_litInSprite] at hp
    obtain ⟨h1, -, -, h4, bits, hb, -⟩ := hp
    obtain ⟨hlt, -⟩ := List.getElem?_eq_some_iff.1 hb
    cases hiRes <;> simp only [drawScale, logicalCols, logicalRows, if_true, Bool.false_eq_true, if_false] at * <;>
      exact ⟨by omega, by omega⟩
  obtain ⟨h1, h2⟩ := plotPixel_foldl _ (scr, false)
    (nodup_coveredPixels hpos (nodup_litInSprite (logicalCols hiRes) ox oy sprite)) inGrid
  refine ⟨fun r c hr hc => ?_, ?_⟩
  · rw [drawSprite, plot_foldl, h1 r c hr hc, spriteCovers]
    simp only [mem_coveredPixels hpos]
  · rw [drawSprite, plot_foldl, h2]
    simp only [Bool.false_or, List.any_eq_true]
    constructor
    · rintro ⟨⟨r, c⟩, hp, hpix⟩
      obtain ⟨hr, hc⟩ := inGrid _ hp
      exact ⟨r, c, hr, hc, by simpa [spriteCovers] using (mem_coveredPixels hpos).1 hp, hpix⟩
    · rintro ⟨r, c, -, -, hcov, hpix⟩
      exact ⟨(r, c), (mem_coveredPixels hpos).2 (by simpa [spriteCovers] using hcov), hpix⟩

end Sys2Proof.Machine
end

