-- ==== Sys2Proof/Laws/Step.lean ====
section
/-! SUPPORT. What a step, a meaning and a command can do, said once: words as numbers are packed words, the frames of the
shared operations, every meaning answers a next state, and the cases of an instruction step. -/

namespace Sys2Proof.Machine

open Sys2Proof

/-! ### Words as numbers -/

theorem wordXKk_eq (hi : Nat) (_ : hi < 16) (x : VReg) (kk : Byte) :
    wordXKk hi x kk = packXKk (BitVec.ofNat 4 hi) x kk := by
  apply BitVec.eq_of_toNat_eq
  have := x.isLt; have := kk.isLt
  rw [packXKk_toNat, wordXKk, BitVec.toNat_ofNat, BitVec.toNat_ofNat]; omega

theorem wordXYN_eq (hi : Nat) (_ : hi < 16) (x y n : Fin 16) :
    wordXYN hi x y n = packXYN (BitVec.ofNat 4 hi) x y n := by
  apply BitVec.eq_of_toNat_eq
  have := x.isLt; have := y.isLt; have := n.isLt
  rw [packXYN_toNat, wordXYN, BitVec.toNat_ofNat, BitVec.toNat_ofNat]; omega

theorem wordNnn_eq (hi : Nat) (_ : hi < 16) (nnn : Addr12) :
    wordNnn hi nnn = packNnn (BitVec.ofNat 4 hi) nnn := by
  apply BitVec.eq_of_toNat_eq
  have := nnn.isLt
  rw [packNnn_toNat, wordNnn, BitVec.toNat_ofNat, BitVec.toNat_ofNat]; omega

/-! ### Frames of the shared operations -/

/-- A violation taken is just that (60_exceptions.md R1304). -/
theorem violated_raise (s : State) (kind : Violation) : s.violated (raise kind s) kind := ⟨rfl, rfl, rfl, fun _ => rfl⟩

theorem sameBytes_of_memory {s t : State} (hm : t.memory = s.memory) (hp : t.params = s.params) : s.sameBytes t :=
  fun a => readByte_congr hm hp a

theorem sameButV_writeV (s : State) (x : VReg) (b : Byte) : s.sameButV (s.writeV x b) [x] :=
  ⟨fun z hz => writeV_getElem_ne s x z b (by simpa using hz), writeV_rest s x b, sameBytes_of_memory (by simp) (by simp)⟩

theorem sameButV_writeFlagged (s : State) (x : VReg) (b : Byte) (f : Bool) : s.sameButV (s.writeFlagged x b f) [x, 15] := by
  refine ⟨fun z hz => ?_, writeFlagged_rest s x b f, sameBytes_of_memory (by simp) (by simp)⟩
  simp only [List.mem_cons, List.not_mem_nil, or_false, not_or] at hz
  exact writeFlagged_getElem_ne s x z b f hz.1 hz.2

theorem sameButPc_skipIf (s : State) (c : Bool) : s.sameButPc (s.skipIf c) :=
  ⟨skipIf_rest s c, sameBytes_of_memory (by simp) (by simp)⟩

theorem sameButPc_jumpTo (s : State) (w : Word) : s.sameButPc (s.jumpTo w) :=
  ⟨jumpTo_rest s w, sameBytes_of_memory (by simp) (by simp)⟩

theorem sameButI_setI (s : State) (w : Word) : s.sameButI (s.setI w) :=
  ⟨setI_rest s w, sameBytes_of_memory (by simp) (by simp)⟩

theorem sameButScreen_writeScreen (s : State) (scr : Screen) : s.sameButScreen (s.writeScreen scr) :=
  ⟨writeScreen_rest s scr, sameBytes_of_memory (by simp) (by simp)⟩

theorem sameButDrawing_finishDraw (s : State) (drawn : Screen × Bool) : s.sameButDrawing (s.finishDraw drawn) :=
  ⟨fun z hz => finishDraw_getElem_ne s z drawn hz, finishDraw_rest s drawn, sameBytes_of_memory (by simp) (by simp)⟩

/-! ### Steps -/

/-- Every meaning answers a next state. -/
theorem exec_next (i : Instr) (s : State) : ∃ t, exec i s = .next t := by
  have checkedNext (violation : Option Violation) (a e : State) : ∃ t, checked violation a e = .next t := by
    cases violation <;> exact ⟨_, rfl⟩
  have keyNext (k : Byte) (a : State) (f : Bool → State) : ∃ t, withKey k a f = .next t := by
    unfold withKey; split <;> exact ⟨_, rfl⟩
  cases i
  case ret => exact checkedNext _ _ _
  case call => exact checkedNext _ _ _
  case ldBcd => exact checkedNext _ _ _
  case storeRegs => exact checkedNext _ _ _
  case loadRegs => exact checkedNext _ _ _
  case saveHp48 => exact checkedNext _ _ _
  case loadHp48 => exact checkedNext _ _ _
  case drw => exact checkedNext _ _ _
  case drwZero => simp only [exec, execDrwZero]; split; exacts [checkedNext _ _ _, ⟨_, rfl⟩]
  case skp => exact keyNext _ _ _
  case sknp => exact keyNext _ _ _
  case ldVxKey =>
    simp only [exec, execLdVxKey]
    split
    · exact ⟨_, rfl⟩
    · split <;> exact ⟨_, rfl⟩
    · split
      · exact ⟨_, rfl⟩
      · exact keyNext _ _ _
  all_goals exact ⟨_, rfl⟩

/-- Everything an instruction step can do: the fetch faults, the word is unknown, or a decoded instruction runs on the state
the fetch leaves. -/
theorem instructionStep_cases (s : State) :
    (4094 < s.pc.toNat ∧ instructionStep s = .next (raise .fetchOutOfRange s)) ∨
    (s.pc.toNat ≤ 4094 ∧ decodeOp s.fetchedWord = none ∧
      instructionStep s = .next (raiseUnknown s.fetchedWord s.pc (s.afterFetch s.fetchedWord))) ∨
    (s.pc.toNat ≤ 4094 ∧ ∃ i, decodeOp s.fetchedWord = some i ∧
      instructionStep s = exec i (s.afterFetch s.fetchedWord)) := by
  by_cases h : s.pc.toNat ≤ 4094
  · have hf : s.canFetch = true := decide_eq_true h
    cases hd : decodeOp s.fetchedWord with
    | none => exact .inr (.inl ⟨h, rfl, by rw [instructionStep, if_pos hf, decodeWord, hd]⟩)
    | some i => exact .inr (.inr ⟨h, i, rfl, by rw [instructionStep, if_pos hf, decodeWord, hd]⟩)
  · have hf : ¬s.canFetch = true := fun e => h (of_decide_eq_true e)
    exact .inl ⟨by omega, by rw [instructionStep, if_neg hf]⟩

theorem step_running {s : State} (h : s.running) : step s = instructionStep s := by
  rw [step, h.2, h.1]; rfl

/-- A step answers a next state only in a core that runs. -/
theorem step_next {s t : State} (h : step s = .next t) : s.running ∧ instructionStep s = .next t := by
  unfold step at h
  cases hf : s.faulted <;> cases hi : s.initialized <;> simp [hf, hi] at h
  exact ⟨⟨hi, hf⟩, h⟩

/-- Fetching a decodable word and executing it. -/
theorem instructionStep_decoded {s : State} {i : Instr} (hp : s.pc.toNat ≤ 4094)
    (hd : decodeOp s.fetchedWord = some i) : instructionStep s = exec i (s.afterFetch s.fetchedWord) := by
  rcases instructionStep_cases s with h | h | ⟨-, j, hj, h⟩
  · omega
  · rw [hd] at h; cases h.2.1
  · rw [hd] at hj; cases hj; exact h

/-- A running core accepts every command (48_host_interface.md R1202). -/
theorem issue_running {s : State} (h : s.running) (c : Command) : issue c s = some (perform c s) := by
  rw [issue, State.accepts, h.1, h.2]; rfl

/-! ### What a meaning can do -/

/-- What no instruction's effect touches: the configuration, the keys, `opcode`, whether the core is initialized or halted,
the record, and stack slot 0. -/
structure State.Untouched (s t : State) : Prop where
  faulted : t.faulted = s.faulted
  raised : t.raised = s.raised
  initialized : t.initialized = s.initialized
  params : t.params = s.params
  keypad : t.keypad = s.keypad
  ipf : t.ipf = s.ipf
  platform : t.platform = s.platform
  opcode : t.opcode = s.opcode
  slotZero : t.stack[0] = s.stack[0]

/-- Memory is as before, or the bytes at I were written after every check had passed. -/
def State.StoresChecked (s t : State) : Prop :=
  t.memory = s.memory ∨ ∃ bs : List Byte, writeCheck s.params s.i.toNat bs.length = none ∧
    t.memory = Memory.writeList s.params s.memory s.i.toNat bs

/-- Everything an instruction can do: it takes a violation, with no other effect, or it leaves the fields of
`Untouched` alone and stores only what it has checked. -/
theorem exec_cases {i : Instr} {s t : State} (h : exec i s = .next t) :
    (∃ kind, t = raise kind s) ∨ (s.Untouched t ∧ s.StoresChecked t) := by
  have chk {violation : Option Violation} {e : State} (hc : checked violation s e = .next t)
      (he : violation = none → s.Untouched e ∧ s.StoresChecked e) :
      (∃ kind, t = raise kind s) ∨ (s.Untouched t ∧ s.StoresChecked t) := by
    rcases checked_cases hc with ⟨kind, -, e⟩ | ⟨hn, e⟩
    · exact .inl ⟨kind, Host.Outcome.next.inj e⟩
    · exact .inr (Host.Outcome.next.inj e ▸ he hn)
  have key {b : Byte} {e : Bool → State} (hc : withKey b s e = .next t)
      (he : ∀ d, s.Untouched (e d) ∧ s.StoresChecked (e d)) :
      (∃ kind, t = raise kind s) ∨ (s.Untouched t ∧ s.StoresChecked t) := by
    rcases withKey_cases b s e with ⟨-, e⟩ | ⟨_, e⟩
    · exact .inl ⟨.keyIndex, Host.Outcome.next.inj (hc.symm.trans e)⟩
    · exact .inr (Host.Outcome.next.inj (hc.symm.trans e) ▸ he _)
  have skip (d : Bool) : s.Untouched (s.skipIf d) ∧ s.StoresChecked (s.skipIf d) := by
    cases d <;> exact ⟨by constructor <;> rfl, .inl rfl⟩
  have rel (d : Bool) : s.Untouched (releaseStep s d) ∧ s.StoresChecked (releaseStep s d) := by
    cases d <;> exact ⟨by constructor <;> rfl, .inl rfl⟩
  have fin (d : Screen × Bool) : s.Untouched (s.finishDraw d) ∧ s.StoresChecked (s.finishDraw d) :=
    ⟨by constructor <;> rfl, .inl rfl⟩
  cases i
  case ret => exact chk h fun _ => ⟨by constructor <;> rfl, .inl rfl⟩
  case call =>
    refine chk h fun hn => ⟨⟨rfl, rfl, rfl, rfl, rfl, rfl, rfl, rfl, ?_⟩, .inl rfl⟩
    have hsp : (s.sp + 1).val ≠ 0 := by
      intro e
      have : s.sp = 15 := by
        have := s.sp.isLt
        apply Fin.ext
        rw [Fin.val_add] at e
        have e1 : ((1 : Fin 16)).val = 1 := rfl
        rw [e1] at e
        show s.sp.val = 15
        omega
      rw [if_pos this] at hn; cases hn
    rw [jumpTo_stack, push_getElem, if_neg hsp]
  case ldBcd x => exact chk h fun hn => ⟨by constructor <;> rfl, .inr ⟨bcdDigits (s.readV x), hn, rfl⟩⟩
  case storeRegs x =>
    exact chk h fun hn => ⟨by constructor <;> rfl, .inr ⟨s.regsUpTo x, by rw [regsUpTo_length]; exact hn, rfl⟩⟩
  case loadRegs => exact chk h fun _ => ⟨by constructor <;> simp, .inl (by simp)⟩
  case saveHp48 => exact chk h fun _ => ⟨by constructor <;> simp, .inl (by simp)⟩
  case loadHp48 => exact chk h fun _ => ⟨by constructor <;> simp, .inl (by simp)⟩
  case drw => exact chk h fun _ => fin _
  case drwZero =>
    simp only [exec, execDrwZero] at h
    split at h
    · exact chk h fun _ => fin _
    · exact .inr (Host.Outcome.next.inj h ▸ fin _)
  case skp => exact key h fun d => skip d
  case sknp => exact key h fun d => skip _
  case ldVxKey =>
    simp only [exec, execLdVxKey] at h
    split at h
    · cases h; split <;> exact .inr ⟨by constructor <;> rfl, .inl rfl⟩
    · split at h <;> (cases h; exact .inr ⟨by constructor <;> rfl, .inl rfl⟩)
    · split at h
      · cases h; exact .inr (rel _)
      · exact key h rel
  case seImm => cases h; exact .inr (skip _)
  case sneImm => cases h; exact .inr (skip _)
  case seReg => cases h; exact .inr (skip _)
  case sneReg => cases h; exact .inr (skip _)
  case low =>
    simp only [exec, execLow] at h
    cases h; split <;> exact .inr ⟨by constructor <;> rfl, .inl rfl⟩
  case high =>
    simp only [exec, execHigh] at h
    cases h; split <;> exact .inr ⟨by constructor <;> rfl, .inl rfl⟩
  case scd => cases h; exact .inr ⟨by constructor <;> simp, .inl (by simp)⟩
  all_goals cases h; exact .inr ⟨by constructor <;> rfl, .inl rfl⟩

end Sys2Proof.Machine
end

