-- ==== Sys2Proof/Tests/Slice0.lean ====
section
/-! SUPPORT. The model's own tests. Every expected value is written by hand from the spec: the words from the patterns of
30_encoding.md R301 and R304, the results from spec/95_test_vectors.md ("X", "V" and "P" below are its vectors) or from the
example of the rule named. After them, for each statement of Obligations.lean that has hypotheses, a state that meets them. -/

open Sys2Proof Sys2Proof.Machine

namespace Sys2Proof.Tests

/-! ### Well-formedness: an ill-formed term for each check, refused -/

theorem test_sys_of_taken_words_is_ill_formed :
    [0x0E0, 0x0C0, 0x0CF, 0x0FB, 0x0FC, 0x0EE, 0x0FD, 0x0FE, 0x0FF].all (fun nnn : Addr12 => !(Instr.sys nnn).wellFormed) =
      true := by decide

theorem test_sys_of_free_words_is_well_formed :
    [0x000, 0x0BF, 0x0D0, 0x0DF, 0x0E1, 0x1E0, 0xFFF].all (fun nnn : Addr12 => (Instr.sys nnn).wellFormed) = true := by decide

theorem test_drw_of_zero_rows_is_ill_formed :
    ((Instr.drw 1 2 0).wellFormed, (Instr.drw 1 2 1).wellFormed) = (false, true) := by decide

/-! ### Words written out from R301 and R304, one at least for each constructor -/

/-- A written word decodes to the instruction it stands for, and that instruction is encoded as the word. -/
def readsAs (c : Word × Instr) : Bool := decodeOp c.1 == some c.2 && encode c.2 == c.1

theorem test_words_group0 : [
    (0b0000_0000_1110_0000, .cls), (0b0000_0000_1100_0011, .scd 3), (0b0000_0000_1111_1011, .scr),
    (0b0000_0000_1111_1100, .scl), (0b0000_0000_1110_1110, .ret), (0b0000_0000_1111_1101, .exitProgram),
    (0b0000_0000_1111_1110, .low), (0b0000_0000_1111_1111, .high), (0b0000_0001_0010_0011, .sys 0x123),
    (0b0000_0000_0000_0000, .sys 0)].all readsAs = true := by decide

theorem test_words_control : [
    (0b0001_0010_0011_0100, .jp 0x234), (0b0010_0011_0000_0000, .call 0x300), (0b0011_0011_0001_0010, .seImm 3 0x12),
    (0b0100_0011_0001_0010, .sneImm 3 0x12), (0b0101_0001_0010_0000, .seReg 1 2), (0b1001_0001_0010_0000, .sneReg 1 2),
    (0b1011_0010_0000_0001, .jpV0 0x201)].all readsAs = true := by decide

theorem test_words_alu : [
    (0b0110_1010_0100_0010, .ldImm 10 0x42), (0b0111_0000_0000_0001, .addImm 0 1), (0b1000_0000_0001_0000, .ldReg 0 1),
    (0b1000_0010_0001_0001, .orReg 2 1), (0b1000_0010_0001_0010, .andReg 2 1), (0b1000_0010_0001_0011, .xorReg 2 1),
    (0b1000_0010_0001_0100, .addReg 2 1), (0b1000_0010_0001_0101, .subReg 2 1), (0b1000_0010_0001_0110, .shrReg 2 1),
    (0b1000_0010_0001_0111, .subnReg 2 1), (0b1000_0010_0001_1110, .shlReg 2 1)].all readsAs = true := by decide

theorem test_words_index_and_random : [
    (0b1010_0010_1111_0000, .ldI 0x2F0), (0b1100_0101_0000_1111, .rnd 5 0x0F), (0b1111_0111_0001_1110, .addI 7),
    (0b1111_0111_0010_1001, .ldFont 7), (0b1111_0111_0011_0000, .ldHiFont 7), (0b1111_0111_0011_0011, .ldBcd 7),
    (0b1111_0111_0101_0101, .storeRegs 7), (0b1111_0111_0110_0101, .loadRegs 7), (0b1111_0111_0111_0101, .saveHp48 7),
    (0b1111_1000_1000_0101, .loadHp48 8)].all readsAs = true := by decide

theorem test_words_draw_keys_timers : [
    (0b1101_0001_0010_0000, .drwZero 1 2), (0b1101_0001_0010_0100, .drw 1 2 4), (0b1110_0101_1001_1110, .skp 5),
    (0b1110_0101_1010_0001, .sknp 5), (0b1111_0011_0000_0111, .ldVxDt 3), (0b1111_0011_0000_1010, .ldVxKey 3),
    (0b1111_0011_0001_0101, .ldDtVx 3), (0b1111_0011_0001_1000, .ldStVx 3)].all readsAs = true := by decide

/-- V3, and the first and last unknown word of each row of R305. -/
theorem test_unknown_words : [0x5121, 0x912F, 0x8008, 0x8FFF, 0x800D, 0x5001, 0xE00F, 0xEFFF, 0xF000, 0xF0FF].all
    (fun w : Word => decodeOp w == none) = true := by decide

/-- The bytes as they stand in memory, and the word as the opcode table numbers it. -/
theorem test_decode_reads_big_endian :
    (decodeTableWord 16 0xA2F0, decodeTableWord 16 0x5121) = (some (.ldI 0x2F0), none) := by decide

/-! ### One step on a small state -/

/-- Parameters for the tests alone: the suggested multiplier G1 of 93_implementation_defined.md, and glyph 0 of its
conventional font G2 (log 15). -/
def testParams : Params :=
  { Params.standard with
    rngMultiplier := 0x5851F42D4C957F2D
    fontLo := (((((Vector.replicate 80 (0 : Byte)).set 0 0xF0).set 1 0x90).set 2 0x90).set 3 0x90).set 4 0xF0
    fontHi := Vector.replicate 160 0 }

/-- The core after reset, with the test parameters. -/
def start : State := { State.reset with params := testParams }

/-- The state after one step on a word placed at PC. -/
def ran (w : Nat) (s : State) : Option State :=
  match step (s.withFetchWord 16 w) with
  | .next t => some t
  | .fault _ => none
  | .refused _ => none

/-- What a step shows of V[x], VF and PC. -/
def seen (x : VReg) (t : State) : Byte × Byte × Word := (t.v[x], t.v[15], t.pc)

/-- Whether a step took this violation. -/
def took (kind : Violation) (t : Option State) : Bool :=
  match t with
  | some t => t.faulted && t.raised == some (.contractViolation kind)
  | none => false

/-- A core with two registers set. -/
def with01 (a b : Byte) : State := (start.writeV 0 a).writeV 1 b

/-- X2, V5: 00E0. -/
theorem test_cls : (ran 0x00E0 { start with screen := start.screen.setPix 5 5 true, hiRes := true }).map
    (fun t => (t.screen.pix 5 5, t.screenUpdated, t.hiRes, t.pc)) = some (false, true, true, 0x202) := by decide
/-- V5: 00C3 in hi-res, pixel (0, 0) lit; X11: 00C1 in low-res. -/
theorem test_scd : (ran 0x00C3 { start with screen := start.screen.setPix 0 0 true, hiRes := true }).map
    (fun t => (t.screen.pix 3 0, t.screen.pix 0 0)) = some (true, false) := by decide
theorem test_scd_low : (ran 0x00C1 { start with screen := (start.screen.setPix 0 0 true).setPix 1 0 true }).map
    (fun t => (t.screen.pix 0 0, t.screen.pix 1 0, t.screen.pix 2 0, t.screen.pix 3 0, t.screenUpdated)) =
      some (false, false, true, true, true) := by decide
/-- V5: 00FB in hi-res, (0,0), (0,6), (0,127) lit: screen[0] = 0x08, screen[1] = 0x20; in low-res (0,0) goes to (0,8). -/
theorem test_scr : (ran 0x00FB { start with
      screen := ((start.screen.setPix 0 0 true).setPix 0 6 true).setPix 0 127 true, hiRes := true }).map
    (fun t => (t.screen.byte 0, t.screen.byte 1, t.screen.byte 15)) = some (0x08, 0x20, 0) := by decide +kernel
theorem test_scr_low : (ran 0x00FB { start with screen := start.screen.setPix 0 0 true }).map
    (fun t => (t.screen.byte 0, t.screen.pix 0 8)) = some (0, true) := by decide +kernel
/-- V5: 00FC in hi-res, (0,1), (0,4) lit. -/
theorem test_scl : (ran 0x00FC { start with screen := (start.screen.setPix 0 1 true).setPix 0 4 true, hiRes := true }).map
    (fun t => (t.screen.byte 0, t.screenUpdated)) = some (0x80, true) := by decide +kernel
/-- V2: 00EE. -/
theorem test_ret : (ran 0x00EE { start with sp := 1, stack := start.stack.set 1 0x204 }).map
    (fun t => (t.pc, t.sp, t.stack[1])) = some (0x204, 0, 0x204) := by decide
theorem test_ret_underflow : took .stackUnderflow (ran 0x00EE start) = true := by decide
/-- V2: 00FD. -/
theorem test_exit : (ran 0x00FD start).map (fun t => (t.ended, t.pc)) = some (true, 0x200) := by decide
/-- V5: 00FE, 00FF. -/
theorem test_low : (ran 0x00FE { start with hiRes := true }).map (fun t => (t.hiRes, t.screenUpdated)) = some (false, true) := by
  decide
theorem test_high : (ran 0x00FF { start with hiRes := true }).map (fun t => (t.hiRes, t.screenUpdated)) = some (true, false) := by
  decide
/-- V2: 0123. -/
theorem test_sys : (ran 0x0123 start).map (fun t => (t.pc, t.opcode)) = some (0x202, 0x0123) := by decide
/-- V2: 1234, 1FFF. -/
theorem test_jp : ((ran 0x1234 start).map State.pc, (ran 0x1FFF start).map State.pc) = (some 0x234, some 0xFFF) := by decide
/-- V2: 2300 with SP = 0 and SP = 15. -/
theorem test_call : (ran 0x2300 start).map (fun t => (t.sp, t.stack[1], t.pc)) = some (1, 0x202, 0x300) := by decide
theorem test_call_overflow : took .stackOverflow (ran 0x2300 { start with sp := 15 }) = true := by decide
/-- V2: 3312, 4312, 5120, 9120. -/
theorem test_seImm : ((ran 0x3312 (start.writeV 3 0x12)).map State.pc, (ran 0x3312 (start.writeV 3 0x13)).map State.pc) =
    (some 0x204, some 0x202) := by decide
theorem test_sneImm : ((ran 0x4312 (start.writeV 3 0x12)).map State.pc, (ran 0x4312 (start.writeV 3 0x13)).map State.pc) =
    (some 0x202, some 0x204) := by decide
theorem test_seReg : ((ran 0x5120 ((start.writeV 1 7).writeV 2 7)).map State.pc,
    (ran 0x5120 ((start.writeV 1 7).writeV 2 8)).map State.pc) = (some 0x204, some 0x202) := by decide
theorem test_sneReg : ((ran 0x9120 ((start.writeV 1 7).writeV 2 8)).map State.pc, (ran 0x9110 (start.writeV 1 7)).map State.pc) =
    (some 0x204, some 0x202) := by decide
/-- V2: B200 and BFFF. -/
theorem test_jpV0 : ((ran 0xB200 ((start.writeV 0 0x10).writeV 2 0x20)).map State.pc,
    (ran 0xB200 { (start.writeV 0 0x10).writeV 2 0x20 with platform := .schip11 }).map State.pc) =
      (some 0x210, some 0x220) := by decide
theorem test_jpV0_not_reduced : (ran 0xBFFF (start.writeV 0 0xFF)).map State.pc = some 0x10FE := by decide
/-- V1. -/
theorem test_ldImm : (ran 0x6A42 start).map (seen 10) = some (0x42, 0, 0x202) := by decide
theorem test_addImm : (ran 0x7001 ((start.writeV 0 0xFF).writeV 15 0x77)).map (seen 0) = some (0, 0x77, 0x202) := by decide
theorem test_ldReg : (ran 0x8010 (with01 0 5)).map (seen 0) = some (5, 0, 0x202) := by decide
theorem test_orReg : (ran 0x8011 ((with01 0x0F 0xF0).writeV 15 0x55)).map (seen 0) = some (0xFF, 0x55, 0x202) := by decide
theorem test_andReg : (ran 0x8012 ((with01 0x3C 0x0F).writeV 15 0x55)).map (seen 0) = some (0x0C, 0x55, 0x202) := by decide
theorem test_xorReg : (ran 0x8013 ((with01 0x3C 0x0F).writeV 15 0x55)).map (seen 0) = some (0x33, 0x55, 0x202) := by decide
theorem test_addReg : (ran 0x8014 (with01 0xFF 1)).map (seen 0) = some (0, 1, 0x202) := by decide
theorem test_addReg_into_flag : (ran 0x8FF4 (start.writeV 15 0x80)).map (seen 15) = some (1, 1, 0x202) := by decide
theorem test_subReg : (ran 0x8015 (with01 1 2)).map (seen 0) = some (0xFF, 0, 0x202) := by decide
theorem test_subReg_equal : (ran 0x8015 (with01 5 5)).map (seen 0) = some (0, 0, 0x202) := by decide
theorem test_shrReg : (ran 0x8016 (with01 0 3)).map (seen 0) = some (1, 1, 0x202) := by decide
theorem test_shrReg_schip : (ran 0x8016 { with01 2 3 with platform := .schip10 }).map (seen 0) = some (1, 0, 0x202) := by decide
theorem test_subnReg : (ran 0x8017 (with01 2 1)).map (seen 0) = some (0xFF, 0, 0x202) := by decide
theorem test_subnReg_positive : (ran 0x8017 (with01 1 2)).map (seen 0) = some (1, 1, 0x202) := by decide
theorem test_shlReg : (ran 0x801E (with01 0x81 0x40)).map (seen 0) = some (0x80, 0, 0x202) := by decide
theorem test_shlReg_schip : (ran 0x801E { with01 0x81 0x40 with platform := .schip11 }).map (seen 0) = some (2, 1, 0x202) := by
  decide
/-- V4. -/
theorem test_ldI : (ran 0xA2F0 start).map State.i = some 0x2F0 := by decide
theorem test_addI : (ran 0xF01E { start.writeV 0 2 with i := 0xFFFF }).map State.i = some 1 := by decide
theorem test_ldFont : (ran 0xF329 (start.writeV 3 0xFF)).map State.i = some 0x54B := by decide
theorem test_ldHiFont : (ran 0xF330 (start.writeV 3 0xFF)).map State.i = some 0xA96 := by decide
theorem test_ldBcd : (ran 0xF033 { start.writeV 0 234 with i := 0x300 }).map
    (fun t => (t.readByte 0x300, t.readByte 0x301, t.readByte 0x302, t.i)) = some (2, 3, 4, 0x300) := by decide
theorem test_ldBcd_into_font : took .fontWrite (ran 0xF033 { start.writeV 0 7 with i := 0x13E }) = true := by decide
theorem test_storeRegs : (ran 0xF155 { with01 1 2 with i := 0x300 }).map
    (fun t => (t.readByte 0x300, t.readByte 0x301, t.i)) = some (1, 2, 0x302) := by decide
theorem test_storeRegs_past_memory : took .memOutOfRange (ran 0xFF55 { start with i := 0xFF1 }) = true := by decide
theorem test_loadRegs : (ran 0xF265 { start.writeBytes 0x300 [7, 8, 9] with i := 0x300, platform := .schip10 }).map
    (fun t => (t.v.toList.take 4, t.i)) = some ([7, 8, 9, 0], 0x302) := by decide +kernel
theorem test_loadRegs_reads_font : (ran 0xF165 { start with i := 0x50, platform := .schip11 }).map
    (fun t => (t.v.toList.take 2, t.i)) = some ([0xF0, 0x90], 0x50) := by decide +kernel
theorem test_saveHp48 : (ran 0xF175 (with01 9 8)).map (fun t => (t.hp48[0], t.hp48[1])) = some (9, 8) := by decide
theorem test_saveHp48_past_seven : took .hp48Index (ran 0xF875 start) = true := by decide
theorem test_loadHp48 : (ran 0xF085 { start with hp48 := start.hp48.set 0 9 }).map (seen 0) = some (9, 0, 0x202) := by decide
theorem test_loadHp48_past_seven : took .hp48Index (ran 0xFF85 start) = true := by decide
/-- V5: D014 in low-res, V0 = 62, V1 = 30, four rows FF, clipped to 2 × 2 logical pixels; D012 past memory. -/
theorem test_drw : (ran 0xD014 ({ with01 62 30 with i := 0x300 }.writeBytes 0x300 [0xFF, 0xFF, 0xFF, 0xFF])).map
    (fun t => (t.screen[60], t.screen[63], t.screen[59], t.v[15], t.screenUpdated)) = some (0xF, 0xF, 0, 0, true) := by
  decide +kernel
theorem test_drw_past_memory : took .memOutOfRange (ran 0xD012 { start with i := 0xFFF }) = true := by decide
/-- V5: D010 in hi-res, V0 = 120, V1 = 60, 32 bytes FF; D120 in low-res, VF = 1. -/
theorem test_drwZero : (ran 0xD010
      ({ with01 120 60 with i := 0x300, hiRes := true }.writeBytes 0x300 (List.replicate 32 0xFF))).map
    (fun t => (t.screen[60], t.screen[63], t.screen[59], t.v[15])) = some (0xFF, 0xFF, 0, 0) := by decide +kernel
theorem test_drwZero_low : (ran 0xD120 (start.writeV 15 1)).map
    (fun t => (t.v[15], t.screen == start.screen, t.screenUpdated)) = some (0, true, true) := by decide
/-- V6. -/
theorem test_skp : ((ran 0xE59E { start.writeV 5 3 with keypad := start.keypad.set 3 true }).map State.pc,
    (ran 0xE59E (start.writeV 5 3)).map State.pc) = (some 0x204, some 0x202) := by decide
theorem test_skp_key_number : took .keyIndex (ran 0xE59E (start.writeV 5 0x10)) = true := by decide
theorem test_sknp : ((ran 0xE5A1 { start.writeV 5 3 with keypad := start.keypad.set 3 true }).map State.pc,
    (ran 0xE5A1 (start.writeV 5 3)).map State.pc) = (some 0x202, some 0x204) := by decide
theorem test_sknp_key_number : took .keyIndex (ran 0xE5A1 (start.writeV 5 0xFF)) = true := by decide
theorem test_ldVxDt : (ran 0xF307 { start with dt := 0x3C }).map (fun t => (t.v[3], t.dt)) = some (0x3C, 0x3C) := by decide
theorem test_ldDtVx : (ran 0xF315 (start.writeV 3 0x3C)).map (fun t => (t.dt, t.st)) = some (0x3C, 0) := by decide
theorem test_ldStVx : (ran 0xF318 (start.writeV 3 2)).map (fun t => (t.dt, t.st)) = some (0, 2) := by decide
/-- V6, the key wait with keys 5 and 9 down: the least one is recorded. -/
theorem test_ldVxKey_press : (ran 0xF30A { start with
      waitForKey := .armedAwaitingPress, keypad := (start.keypad.set 5 true).set 9 true }).map
    (fun t => (t.v[3], t.pc, t.waitForKey)) = some (5, 0x200, .awaitingRelease) := by decide
/-- V6, RecordedKey: key 9 still down, the recorded key 5 released. -/
theorem test_ldVxKey_release : (ran 0xF30A { start.writeV 3 5 with
      waitForKey := .awaitingRelease, keypad := start.keypad.set 9 true
      params := { testParams with releaseCheck := .recordedKey } }).map
    (fun t => (t.v[3], t.pc, t.waitForKey)) = some (5, 0x202, .idle) := by decide
/-- P5 (assumed C); V7, which holds for any C, with another one. -/
theorem test_rnd : (ran 0xC1FF { start with rng := 1 }).map (fun t => (t.v[1], t.rng)) =
    some (0x58, 0x5851F42D4C957F2E) := by decide
theorem test_rnd_from_zero : (ran 0xC50F { start with params := { testParams with rngMultiplier := 3 } }).map
    (fun t => (t.v[5], t.rng)) = some (0, 1) := by decide

/-! ### Faults and the host port -/

/-- V3: 5121 at 0x200. -/
theorem test_unknown_opcode : (ran 0x5121 start).map (fun t => (t.pc, t.opcode, t.faulted, t.raised)) =
    some (0x202, 0x5121, false, some (.unknownOpcode 0x5121 0x200)) := by decide
/-- R403: a fetch at 0xFFF. -/
theorem test_fetch_out_of_range : step { start with pc := 0xFFF } = .next
    { start with pc := 0xFFF, faulted := true, raised := some (.contractViolation .fetchOutOfRange) } := rfl
/-- X13. -/
theorem test_ipf : ([0, 29, 30, 60, 89, 90, 500, 540, 1000].map (ipfOf testParams),
    [29, 89, 90, 500, 540].map (ipfOf { testParams with ipfRounding := .truncate }), ipfOf testParams (-1)) =
    ([some 0, some 0, some 1, some 1, some 1, some 2, some 8, some 9, some 17], [some 0, some 1, some 1, some 8, some 9],
      none) := by decide
/-- V6: tickTimers. -/
theorem test_tickTimers : ((cmdTickTimers { start with dt := 2, st := 1 }).2.dt,
    (cmdTickTimers { start with dt := 2, st := 1 }).2.st, (cmdTickTimers start).2.dt) = (1, 0, 0) := by decide
/-- V8: loadProgram, then one cycle call of two steps (6005, 00FD). -/
theorem test_load_and_cycle : (issueAll [.init 120 .chip8 0, .loadProgram [0x60, 0x05, 0x00, 0xFD], .cycle] start).map
    (fun t => (t.v[0], t.ended, t.pc, t.ipf)) = some (5, true, 0x202, 2) := by decide +kernel
/-- V8: getPixel(64, 0) and pressKey(16) halt the core. -/
theorem test_port_violations : ((issue (.getPixel 64 0) start).map Prod.fst, (issue (.pressKey 16) start).map Prod.fst,
    (issueAll [.pressKey 16, .init 60 .chip8 0] start).isNone) =
    (some (.fault .pixelIndex), some (.fault .keyIndex), true) := by decide

/-! ### States that meet the hypotheses of the statements -/

/-- A running state other than reset: a byte of the program written, a call made, a fault record left by an unknown word. -/
def busy : State :=
  { start.writeByte 0x300 0x80 with
    sp := 1, stack := start.stack.set 1 0x204, ipf := 1, raised := some (.unknownOpcode 0x5121 0x200) }

theorem busy_inv : busy.Inv :=
  ⟨by decide, by decide, by decide, by decide, by simp [busy, start, State.reset, State.writeByte]⟩

theorem busy_running : busy.running ∧ busy ≠ State.reset := ⟨⟨rfl, rfl⟩, fun e => absurd (congrArg State.ipf e) (by decide)⟩

/-- A halted core, and a core before its first `initialize`. -/
def haltedCore : State := raise .memOutOfRange busy
def freshCore : State := { busy with initialized := false }

theorem witness_DecodeEncodeRoundTrip : (Instr.drw 15 15 1).wellFormed = true ∧ (Instr.sys 0x0D0).wellFormed = true ∧
    (Instr.saveHp48 15).wellFormed = true := by decide

theorem witness_EncodeDecodeRoundTrip : decodeWord 0x0000 = .ok (.sys 0) ∧ decodeWord 0xFF85 = .ok (.loadHp48 15) :=
  ⟨rfl, rfl⟩

/-- A word that one row matches, and two that two rows match. -/
theorem witness_RowsSelectByMatchAndMask :
    (decodeWord 0x1FFF = .ok (.jp 0xFFF) ∧ (0x1FFF : Word) &&& (tableRow (.jp 0)).2.1 = (tableRow (.jp 0)).1) ∧
    ((0x00E0 : Word) &&& (tableRow (.sys 0)).2.1 = (tableRow (.sys 0)).1) ∧
    ((0xD120 : Word) &&& (tableRow (.drw 0 0 1)).2.1 = (tableRow (.drw 0 0 1)).1) := ⟨⟨rfl, by decide⟩, by decide, by decide⟩

theorem witness_ResetZeroesAndInstallsFonts :
    (0x4F < 0x50 ∨ (0x140 ≤ 0x4F ∧ 0x4F < 4096)) ∧ (0x140 < 0x50 ∨ (0x140 ≤ 0x140 ∧ 0x140 < 4096)) ∧
    (0xFFF < 0x50 ∨ (0x140 ≤ 0xFFF ∧ 0xFFF < 4096)) ∧ 1023 < 1024 := by decide

theorem witness_InitializeResetsAndConfigures : busy.faulted = false ∧ (0 : Int) ≤ 0 ∧ (-1 : Int) < 0 := ⟨rfl, by decide⟩

theorem witness_InitializeForgetsThePast : (0 : Int) ≤ 0 ∧ busy.params = freshCore.params ∧ busy.faulted = false ∧
    freshCore.faulted = false ∧ busy ≠ freshCore :=
  ⟨by decide, rfl, rfl, rfl, fun e => absurd (congrArg State.initialized e) (by decide)⟩

theorem witness_SoftResetKeepsMemory : busy.running ∧ busy.params.softResetKeepsConfig = true ∧
    { busy with params := { testParams with softResetKeepsConfig := false } }.running ∧
    { testParams with softResetKeepsConfig := false }.softResetKeepsConfig = false := ⟨⟨rfl, rfl⟩, rfl, ⟨rfl, rfl⟩, rfl⟩

theorem witness_LoadProgramCopiesBytes : busy.running ∧ (List.replicate 3584 (0xAA : Byte)).length ≤ 3584 ∧
    3584 < (List.replicate 3585 (0xAA : Byte)).length :=
  ⟨⟨rfl, rfl⟩, by rw [List.length_replicate, List.length_replicate]; decide⟩

theorem witness_SetFrequencyRounds : busy.running ∧ (0 : Int) ≤ 29 ∧ (-1 : Int) < 0 ∧ busy.params.ipfRounding = .nearest ∧
    { busy with params := { testParams with ipfRounding := .truncate } }.running := ⟨⟨rfl, rfl⟩, by decide, by decide, rfl, rfl, rfl⟩

theorem witness_PlatformAndKeyCommands : busy.running ∧ 15 < 16 ∧ (14 : Fin 16) ≠ 15 := ⟨⟨rfl, rfl⟩, by decide⟩

theorem witness_QueriesReadAndChangeNothing : busy.running ∧ (63 ≤ 63 ∧ 127 ≤ 127) ∧ (63 < 64 ∨ 127 < 0) ∧
    (63 < 0 ∨ 127 < 128) := ⟨⟨rfl, rfl⟩, by decide⟩

theorem witness_TickTimersCountsDown : { busy with dt := 1 }.running ∧ busy.running := ⟨⟨rfl, rfl⟩, rfl, rfl⟩

theorem witness_AcceptanceOfCommands : haltedCore.faulted = true ∧ freshCore.isPowerOn ∧
    (∀ f p seed, Command.cycle ≠ .init f p seed) ∧ busy.running := ⟨rfl, ⟨rfl, rfl⟩, by simp, rfl, rfl⟩

theorem witness_StepKeepsInvariant : busy.Inv ∧ ∃ t, step busy = .next t := ⟨busy_inv, _, rfl⟩

theorem witness_CommandKeepsInvariant : busy.Inv ∧ ∃ r t, issue .cycle busy = some (r, t) := ⟨busy_inv, _, _, rfl⟩

/-- The last address a word can be fetched from. -/
def atEnd (w : Nat) : State := { busy with pc := 0xFFE }.withFetchWord 16 w

theorem witness_StepRunsDecodedInstruction : (atEnd 0x6A42).running ∧ (atEnd 0x6A42).pc.toNat ≤ 4094 ∧
    decodeWord (bigEndian ((atEnd 0x6A42).readByte (atEnd 0x6A42).pc.toNat)
      ((atEnd 0x6A42).readByte ((atEnd 0x6A42).pc.toNat + 1))) = .ok (.ldImm 10 0x42) := ⟨⟨rfl, rfl⟩, by decide, rfl⟩

theorem witness_FetchOutOfRangeFaults : { busy with pc := 0xFFF }.running ∧ 4094 < { busy with pc := 0xFFF }.pc.toNat :=
  ⟨⟨rfl, rfl⟩, by decide⟩

theorem witness_UnknownOpcodeIsReportedAndResumable : (atEnd 0x5121).running ∧ (atEnd 0x5121).pc.toNat ≤ 4094 ∧
    (atEnd 0x5121).fetchedWord = 0x5121 ∧ decodeWord 0x5121 = .error (.unknownOpcode 0x5121) ∧ 1 ≤ (atEnd 0x5121).ipf :=
  ⟨⟨rfl, rfl⟩, by decide, by decide, rfl, by decide⟩

theorem witness_RunningCoreAlwaysSteps : busy.running := ⟨rfl, rfl⟩

theorem witness_CycleStopsAtFirstFault : busy.running ∧ (∃ t, step busy = .next t) ∧ (atEnd 0x5121).running ∧
    ∃ t, step (atEnd 0x5121) = .next t := ⟨⟨rfl, rfl⟩, ⟨_, rfl⟩, ⟨rfl, rfl⟩, _, rfl⟩

theorem witness_ExitSpins : (atEnd 0x00FD).running ∧ (atEnd 0x00FD).pc.toNat ≤ 4094 ∧ (atEnd 0x00FD).fetchedWord = 0x00FD ∧
    1 ≤ 1 := ⟨⟨rfl, rfl⟩, by decide⟩

theorem witness_KeyWaitStallsWithoutKeys : (atEnd 0xF30A).running ∧ (atEnd 0xF30A).pc.toNat ≤ 4094 ∧
    (atEnd 0xF30A).fetchedWord = wordXKk 0xF 3 0x0A ∧ (atEnd 0xF30A).waitForKey = .idle ∧
    (∀ k : Fin 16, (atEnd 0xF30A).keypad[k] = false) ∧ 1 ≤ 1 := ⟨⟨rfl, rfl⟩, by decide⟩

theorem witness_KeyWaitCompletesAfterRelease : (atEnd 0xF30A).running ∧ (atEnd 0xF30A).pc.toNat ≤ 4094 ∧
    (atEnd 0xF30A).fetchedWord = wordXKk 0xF 3 0x0A ∧ (atEnd 0xF30A).waitForKey = .idle ∧
    (∀ k : Fin 16, (atEnd 0xF30A).keypad[k] = false) ∧ (atEnd 0xF30A).ipf = 1 := ⟨⟨rfl, rfl⟩, by decide⟩

/-- Zeroed memory from 0xFFE on. -/
theorem witness_ZeroedMemoryRunsOffTheEnd : { start with pc := 0xFFE }.running ∧ { start with pc := 0xFFE }.raised = none ∧
    { start with pc := 0xFFE }.pc.toNat + 2 * 1 = 4096 ∧
    (∀ a, { start with pc := 0xFFE }.pc.toNat ≤ a → a < 4096 → { start with pc := 0xFFE }.readByte a = 0) ∧ 1 ≤ 1 := by
  refine ⟨⟨rfl, rfl⟩, rfl, rfl, fun a h h' => ?_, le_rfl⟩
  have h : 0xFFE ≤ a := h
  obtain rfl | rfl : a = 0xFFE ∨ a = 0xFFF := by omega
  all_goals rfl

theorem witness_EqualReadsAreEqualMemories : busy.memory.wf busy.params ∧ busy.memory = [(0x300, 0x80)] ∧
    ∀ a, a < 4096 → busy.memory.read busy.params a = busy.memory.read busy.params a := ⟨by decide, by decide, fun _ _ => rfl⟩

theorem witness_StepNeverChangesFonts : busy.params.fontWriteFaults = true ∧ (∃ t, step busy = .next t) ∧ 0x50 ≤ 0x13F ∧
    0x13F < 0x140 := ⟨rfl, ⟨_, rfl⟩, by decide⟩

theorem witness_ScrollRanges : 63 < 64 ∧ 127 < 128 := by decide

theorem witness_RetPopsReturnAddress : 0 < busy.sp.val ∧ 0 < { busy with sp := 15 }.sp.val ∧ start.sp.val = 0 := by decide

theorem witness_SystemInstructions :
    (0x0D0 : Addr12).toNat ∉ [0x0E0, 0x0FB, 0x0FC, 0x0EE, 0x0FD, 0x0FE, 0x0FF] ∧
    ¬(0x0C0 ≤ (0x0D0 : Addr12).toNat ∧ (0x0D0 : Addr12).toNat ≤ 0x0CF) ∧
    (0xFFF : Addr12).toNat ∉ [0x0E0, 0x0FB, 0x0FC, 0x0EE, 0x0FD, 0x0FE, 0x0FF] := by decide

theorem witness_JumpTargets : start.platform = .chip8 ∧ { start with platform := .schip10 }.platform ≠ .chip8 ∧
    (15 : VReg).val = (0xFFF : Addr12).toNat / 0x100 := by decide

theorem witness_CallPushesReturnAddress : { start with sp := 14 }.sp.val < 15 ∧ { start with sp := 15 }.sp.val = 15 := by decide

theorem witness_FifteenCallsNest : start.faulted = false ∧ start.sp.val + (List.replicate 15 (0x300 : Addr12)).length ≤ 15 ∧
    ¬start.sp.val + (List.replicate 16 (0x300 : Addr12)).length ≤ 15 := by decide

theorem witness_FlagForms : (14 : VReg) ≠ 15 ∧ (0 : VReg) ≠ 15 := by decide

/-- The font condition of the storing statements, at an address I and a count of bytes. -/
def fontHit (s : State) (n : Nat) : Prop :=
  s.params.fontWriteFaults = true ∧ ∃ k, k < n ∧ 0x50 ≤ s.i.toNat + k ∧ s.i.toNat + k < 0x140

theorem witness_BcdStoresDecimalDigits :
    ({ start with i := 0xFFD }.i.toNat + 2 < 4096 ∧ ¬fontHit { start with i := 0xFFD } 3) ∧
    ({ start with i := 0x04D }.i.toNat + 2 < 4096 ∧ ¬fontHit { start with i := 0x04D } 3) ∧
    4096 ≤ { start with i := 0xFFE }.i.toNat + 2 ∧
    ({ start with i := 0x13F }.i.toNat + 2 < 4096 ∧ fontHit { start with i := 0x13F } 3) ∧
    fontHit { start with i := 0x04E } 3 := by
  refine ⟨⟨by decide, ?_⟩, ⟨by decide, ?_⟩, by decide, ⟨by decide, rfl, 0, by decide⟩, rfl, 2, by decide⟩ <;>
  · rintro ⟨-, k, hk, h, h'⟩
    simp at h h'
    omega

theorem witness_StoreRegistersToMemory :
    ({ start with i := 0xFF0 }.i.toNat + (15 : VReg).val < 4096 ∧ ¬fontHit { start with i := 0xFF0 } 16) ∧
    4096 ≤ { start with i := 0xFF1 }.i.toNat + (15 : VReg).val ∧
    ({ start with i := 0x04F }.i.toNat + (1 : VReg).val < 4096 ∧ fontHit { start with i := 0x04F } 2) := by
  refine ⟨⟨by decide, ?_⟩, by decide, by decide, rfl, 1, by decide⟩
  rintro ⟨-, k, hk, h, h'⟩
  simp at h h'
  omega

theorem witness_LoadRegistersFromMemory : { start with i := 0xFF0 }.i.toNat + (15 : VReg).val < 4096 ∧
    4096 ≤ { start with i := 0xFF1 }.i.toNat + (15 : VReg).val := by decide

/-- Two registers stored at 0x300 by a Chip8 core, read back by another core with that memory. -/
theorem witness_LoadRestoresStoredRegisters : ∃ s t u : State, exec (.storeRegs 1) s = .next t ∧ t.faulted = false ∧
    u.memory = t.memory ∧ u.params = t.params ∧ u.i = s.i ∧ u.v ≠ s.v :=
  ⟨{ with01 1 2 with i := 0x300 }, _, { start with i := 0x300, memory := [(0x300, 1), (0x301, 2)] }, rfl, rfl, by decide,
    rfl, rfl, by decide⟩

theorem witness_Hp48SaveAndRestore : (7 : VReg).val ≤ 7 ∧ 7 < (8 : VReg).val ∧ (7 : VReg).val = (7 : Fin 8).val := by decide

/-- DRW: one row at the last byte of memory, and one byte further. -/
theorem witness_DrawXorsSpritePixels : (1 : Fin 16).val ≠ 0 ∧ { start with i := 0xFFF }.drawnRows 0 1 = 1 ∧
    { start with i := 0xFFF }.i.toNat + 1 ≤ 4096 ∧ 4096 < { start with i := 0x1000 }.i.toNat + 1 := by decide

theorem witness_DrawZeroDrawsWideSprite : { start with hiRes := true, i := 0xFE0 }.drawnRows 0 16 = 16 ∧
    { start with i := 0xFE0 }.i.toNat + 2 * 16 ≤ 4096 ∧ 4096 < { start with i := 0xFE1 }.i.toNat + 2 * 16 ∧
    start.hiRes = false := by decide

/-- A draw of one lit byte onto the empty screen. -/
theorem witness_DrawingTwiceErases : ∃ t, exec (.drw 0 1 1) ({ start with i := 0x300 }.writeByte 0x300 0x80) = .next t ∧
    t.faulted = false ∧ t.v[0] = start.v[0] ∧ t.v[1] = start.v[1] ∧
    (∀ r c, start.screen.pix r c = false) ∧ t.screen ≠ start.screen := by
  refine ⟨_, rfl, rfl, by decide, by decide, fun r c => Screen.pix_clear r c, fun e => ?_⟩
  exact absurd (congrArg (fun scr => Screen.pix scr 0 0) e) (by decide)

theorem witness_KeySkipsFollowLatch : (start.writeV 5 15).v[5].toNat = (15 : Fin 16).val ∧
    15 < (start.writeV 5 16).v[5].toNat := by decide

/-- A core in a state of the key wait, under a release check, V3 = v, with key 15 down or no key. -/
def waiting (w : KeyWait) (check : ReleaseCheck) (v : Byte) (down : Bool) : State :=
  { start.writeV 3 v with
    waitForKey := w, keypad := start.keypad.set 15 down, params := { testParams with releaseCheck := check } }

/-- Whether Fx0A with x = 3 is held there (R1008). -/
def heldThere (s : State) : Prop :=
  (s.params.releaseCheck = .anyKey ∧ ∃ k : Fin 16, s.keypad[k] = true) ∨
    (s.params.releaseCheck = .recordedKey ∧ ∃ k : Fin 16, s.v[(3 : VReg)].toNat = k.val ∧ s.keypad[k] = true)

theorem witness_KeyWaitTransitions_idle_and_armed :
    (∀ w ∈ [KeyWait.idle, .armedAwaitingPress], (waiting w .anyKey 0 false).waitForKey = w ∧
      ¬∃ k : Fin 16, (waiting w .anyKey 0 false).keypad[k] = true) ∧
    (∀ w ∈ [KeyWait.idle, .armedAwaitingPress], (waiting w .anyKey 0 true).waitForKey = w ∧
      (waiting w .anyKey 0 true).keypad[(15 : Fin 16)] = true ∧
      ∀ j : Fin 16, j < 15 → (waiting w .anyKey 0 true).keypad[j] = false) := by decide

theorem witness_KeyWaitTransitions_awaiting :
    heldThere (waiting .awaitingRelease .anyKey 0 true) ∧ heldThere (waiting .awaitingRelease .recordedKey 15 true) ∧
    ¬heldThere (waiting .awaitingRelease .anyKey 0 false) ∧
    (¬heldThere (waiting .awaitingRelease .recordedKey 14 true) ∧
      ¬15 < (waiting .awaitingRelease .recordedKey 14 true).v[(3 : VReg)].toNat) ∧
    15 < (waiting .awaitingRelease .recordedKey 16 true).v[(3 : VReg)].toNat := by
  unfold heldThere; decide

theorem witness_RandomSequenceIsDetermined : busy.rng = start.rng ∧ busy.params.rngMultiplier = start.params.rngMultiplier ∧
    busy.faulted = false ∧ start.faulted = false := ⟨rfl, rfl, rfl, rfl⟩

theorem witness_PlatformReadByFiveInstructions : (∀ x y, Instr.cls ≠ .shrReg x y ∧ Instr.cls ≠ .shlReg x y) ∧
    (∀ nnn, Instr.cls ≠ .jpV0 nnn) ∧ (∀ x, Instr.cls ≠ .storeRegs x ∧ Instr.cls ≠ .loadRegs x) ∧
    ∃ t, exec .cls busy = .next t := ⟨by simp, by simp, by simp, _, rfl⟩

theorem witness_OnlyListedInstructionsWrite : ∃ t, exec (.ldBcd 0) { busy with i := 0x300 } = .next t := ⟨_, rfl⟩

end Sys2Proof.Tests
end

section
/-! Proofs of the family 10_state.md (O8, O29, O38, O59, O60): what a canonical memory holds, what `cmdInit` forgets,
how calls nest, who reads the platform, and who writes each field. -/

namespace Sys2Proof.Machine

open Sys2Proof

/-! ### A canonical memory is what it reads as (log 9) -/

/-- The cells of a canonical memory, told by reading alone: the bytes inside memory that differ from the reset contents. -/
theorem Memory.mem_iff_read {p : Params} {m : Memory} (h : m.wf p) {a : Nat} {b : Byte} :
    (a, b) ∈ m ↔ a < memSize ∧ b ≠ Memory.unlisted p a ∧ Memory.read p m a = b := by
  obtain ⟨hsorted, hcells⟩ := h
  constructor
  · intro hm
    obtain ⟨ha, hb⟩ := hcells _ hm
    exact ⟨ha, hb, Memory.read_of_mem hsorted hm⟩
  · rintro ⟨-, hb, hread⟩
    obtain ⟨⟨k, c⟩, hm, rfl⟩ : ∃ d ∈ m, d.1 = a := by
      by_contra hnone
      push Not at hnone
      exact hb (hread ▸ Memory.read_of_not_mem hnone)
    rwa [← hread, Memory.read_of_mem hsorted hm]

/-- Where addresses rise strictly, the cells determine the list. -/
theorem Memory.eq_of_mem_iff {m₁ m₂ : Memory} (h₁ : m₁.Pairwise fun c d => c.1 < d.1)
    (h₂ : m₂.Pairwise fun c d => c.1 < d.1) (h : ∀ c, c ∈ m₁ ↔ c ∈ m₂) : m₁ = m₂ := by
  have : Std.Irrefl fun c d : Host.Cell => c.1 < d.1 := ⟨fun c => lt_irrefl c.1⟩
  have : Std.Antisymm fun c d : Host.Cell => c.1 < d.1 := ⟨fun _ _ hcd hdc => absurd hdc hcd.asymm⟩
  exact h₁.eq_of_mem_iff h₂ h

/-- Settles O29: both lists hold exactly the cells that `Memory.mem_iff_read` reads off, in rising order. -/
theorem equalReadsAreEqualMemories : Obligations.EqualReadsAreEqualMemories := by
  intro p m₁ m₂ h₁ h₂ hread
  refine Memory.eq_of_mem_iff h₁.1 h₂.1 fun ⟨a, b⟩ => ?_
  rw [Memory.mem_iff_read h₁, Memory.mem_iff_read h₂]
  exact and_congr_right fun ha => by rw [hread a ha]

/-! ### `cmdInit` (70_reset_and_hazards.md R1403) -/

/-- The core that `cmdInit` leaves: its arguments, the parameters, and the reset values. -/
def State.afterInit (params : Params) (ipf : Nat) (platform : Platform) (seed : Seed) : State :=
  { State.reset with params := params, ipf := ipf, platform := platform, rng := seed }

/-- A frequency that is not negative gives an IPF (48_host_interface.md R1207). -/
theorem exists_ipfOf_of_nonneg (p : Params) {hz : Int} (h : 0 ≤ hz) : ∃ n, ipfOf p hz = some n := by
  rw [ipfOf, if_neg (not_lt.2 h)]
  cases p.ipfRounding <;> exact ⟨_, rfl⟩

/-- Of the state before it, the command looks at the parameters alone. -/
theorem issue_init {s : State} (hf : s.faulted = false) {hz : Int} {n : Nat} (hn : ipfOf s.params hz = some n)
    (p : Platform) (seed : Seed) :
    issue (.init hz p seed) s = some (.done, State.afterInit s.params n p seed) := by
  have haccept : s.accepts (.init hz p seed) = true := by simp [State.accepts, Command.isInit, hf]
  rw [issue, if_pos haccept, perform, cmdInit, hn, resetCore, hf]
  rfl

/-- Settles O8: either core becomes the same `State.afterInit`. -/
theorem initializeForgetsThePast : Obligations.InitializeForgetsThePast := by
  intro f p seed s₁ s₂ hf hparams h₁ h₂
  obtain ⟨n, hn⟩ := exists_ipfOf_of_nonneg s₁.params hf
  refine ⟨_, issue_init h₁ hn p seed, ?_⟩
  rw [hparams] at hn ⊢
  exact issue_init h₂ hn p seed

/-! ### Nests of calls (10_state.md R109 to R111) -/

theorem execAll_append (is js : List Instr) (s : State) :
    execAll (is ++ js) s = (execAll is s).bind (execAll js) := by
  induction is generalizing s with
  | nil => rfl
  | cons i rest ih =>
    simp only [List.cons_append, execAll]
    split
    · split
      · rfl
      · exact ih _
    · rfl
    · rfl

theorem execAll_call {s : State} (hf : s.faulted = false) (hsp : s.sp.val < 15) (nnn : Addr12) (rest : List Instr) :
    execAll (.call nnn :: rest) s = execAll rest ((s.push s.pc).jumpTo (addrWord nnn)) := by
  have h : s.sp ≠ 15 := fun e => by simp [e] at hsp
  simp [execAll, exec, execCall, h, hf]

theorem execAll_call_full {s : State} (hsp : s.sp = 15) (nnn : Addr12) (rest : List Instr) :
    execAll (.call nnn :: rest) s = none := by
  simp [execAll, exec, execCall, hsp]

theorem execAll_ret {s : State} (hf : s.faulted = false) (hsp : 0 < s.sp.val) :
    execAll [.ret] s = some (s.pop.jumpTo s.top) := by
  have h : s.sp ≠ 0 := fun e => by simp [e] at hsp
  simp [execAll, exec, execRet, h, hf]

theorem execAll_calls_isSome (targets : List Addr12) (s : State) (hf : s.faulted = false) :
    (execAll (targets.map .call) s).isSome = true ↔ s.sp.val + targets.length ≤ 15 := by
  induction targets generalizing s with
  | nil => simp [execAll]; omega
  | cons nnn rest ih =>
    rw [List.map_cons, List.length_cons]
    by_cases hsp : s.sp.val < 15
    · rw [execAll_call hf hsp, ih _ (by simpa using hf), jumpTo_sp, push_sp_val _ _ hsp]
      omega
    · rw [execAll_call_full (Fin.ext (show s.sp.val = 15 by omega))]
      simp
      omega

/-- A nest that fits runs to its end and differs from its start in free stack slots alone, those above SP. The slots up to SP
are in the statement for the induction: the outermost return finds the slot of its call as it was. -/
theorem execAll_nest (targets : List Addr12) (s : State) (hf : s.faulted = false)
    (hfit : s.sp.val + targets.length ≤ 15) :
    ∃ stack : Vector Word 16,
      execAll (targets.map .call ++ List.replicate targets.length .ret) s = some { s with stack := stack } ∧
      ∀ k : Fin 16, k ≤ s.sp → stack[k] = s.stack[k] := by
  induction targets generalizing s with
  | nil => exact ⟨s.stack, rfl, fun _ _ => rfl⟩
  | cons nnn rest ih =>
    rw [List.length_cons] at hfit
    have hsp : s.sp.val < 15 := by omega
    have hsucc : (s.sp + 1).val = s.sp.val + 1 := push_sp_val s s.pc hsp
    obtain ⟨stack, hrun, hslots⟩ := ih ((s.push s.pc).jumpTo (addrWord nnn)) hf
      (by rw [jumpTo_sp, push_sp_val _ _ hsp]; omega)
    refine ⟨stack, ?_, fun k hk => ?_⟩
    · have htop : stack[s.sp + 1] = s.pc := (hslots (s.sp + 1) le_rfl).trans (push_top s s.pc)
      rw [List.map_cons, List.cons_append, execAll_call hf hsp, List.length_cons, List.replicate_succ',
        ← List.append_assoc, execAll_append, hrun, Option.bind_some]
      refine (execAll_ret (s := { (s.push s.pc).jumpTo (addrWord nnn) with stack := stack }) hf
        (show 0 < (s.sp + 1).val by omega)).trans ?_
      show some { s with pc := stack[s.sp + 1], sp := s.sp + 1 - 1, stack := stack } = _
      rw [htop, add_sub_cancel_right]
    · have hle : k.val ≤ s.sp.val := hk
      rw [hslots k (show k.val ≤ (s.sp + 1).val by omega)]
      exact (push_getElem s s.pc k.isLt).trans (if_neg (by omega))

/-- Settles O38, by induction on the targets: a call takes one slot, and its return finds that slot untouched. -/
theorem fifteenCallsNest : Obligations.FifteenCallsNest := by
  intro targets s hf
  refine ⟨execAll_calls_isSome targets s hf, fun hfit => ?_⟩
  obtain ⟨stack, hrun, -⟩ := execAll_nest targets s hf hfit
  exact ⟨_, hrun, rfl, rfl, rfl⟩

/-! ### Fx0A by the state of the key wait (46_keys_timers.md R1006) -/

section keyWait
variable {s : State} {x : VReg}

theorem execLdVxKey_idle (hw : s.waitForKey = .idle) :
    execLdVxKey x s = .next (if s.anyKey then s.rewind.setWait .armedAwaitingPress else s.rewind) := by
  simp only [execLdVxKey, hw]

theorem execLdVxKey_armed_none (hw : s.waitForKey = .armedAwaitingPress) (hk : s.firstKey = none) :
    execLdVxKey x s = .next s.rewind := by
  simp only [execLdVxKey, hw, hk]

theorem execLdVxKey_armed_some (hw : s.waitForKey = .armedAwaitingPress) {k : Nat} (hk : s.firstKey = some k) :
    execLdVxKey x s = .next ((s.rewind.writeV x (BitVec.ofNat 8 k)).setWait .awaitingRelease) := by
  simp only [execLdVxKey, hw, hk]

theorem execLdVxKey_awaiting_anyKey (hw : s.waitForKey = .awaitingRelease) (hr : s.params.releaseCheck = .anyKey) :
    execLdVxKey x s = .next (releaseStep s s.anyKey) := by
  simp only [execLdVxKey, hw, hr]

theorem execLdVxKey_awaiting_recordedKey (hw : s.waitForKey = .awaitingRelease)
    (hr : s.params.releaseCheck = .recordedKey) : execLdVxKey x s = withKey (s.readV x) s (releaseStep s) := by
  simp only [execLdVxKey, hw, hr]

end keyWait

/-! ### The platform is read by five instructions (10_state.md R124) -/

/-- The same state under another platform. -/
def State.onPlatform (s : State) (p : Platform) : State := { s with platform := p }

section platform
variable {s t : State} (p : Platform)

@[simp] theorem onPlatform_hiRes : (s.onPlatform p).hiRes = s.hiRes := rfl
@[simp] theorem onPlatform_anyKey : (s.onPlatform p).anyKey = s.anyKey := rfl
@[simp] theorem onPlatform_keyDown (b : Byte) : (s.onPlatform p).keyDown b = s.keyDown b := rfl

theorem skipIf_onPlatform (s : State) (c : Bool) : (s.onPlatform p).skipIf c = (s.skipIf c).onPlatform p := by
  cases c <;> rfl

theorem releaseStep_onPlatform (s : State) (held : Bool) :
    releaseStep (s.onPlatform p) held = (releaseStep s held).onPlatform p := by
  cases held <;> rfl

theorem checked_onPlatform {violation : Option Violation} {e : State} (h : checked violation s e = .next t) :
    checked violation (s.onPlatform p) (e.onPlatform p) = .next (t.onPlatform p) := by
  rcases checked_cases h with ⟨kind, rfl, ht⟩ | ⟨rfl, ht⟩ <;> (cases ht; rfl)

theorem withKey_onPlatform {b : Byte} {e e' : Bool → State} (he : ∀ d, e' d = (e d).onPlatform p)
    (h : withKey b s e = .next t) : withKey b (s.onPlatform p) e' = .next (t.onPlatform p) := by
  rw [withKey] at h
  rw [withKey, onPlatform_keyDown]
  cases hk : s.keyDown b with
  | none => rw [hk] at h; cases h; rfl
  | some down => rw [hk] at h; cases h; exact congrArg _ (he down)

theorem execDrwZero_onPlatform {x y : VReg} (h : execDrwZero x y s = .next t) :
    execDrwZero x y (s.onPlatform p) = .next (t.onPlatform p) := by
  by_cases hr : s.hiRes = true
  · rw [execDrwZero, if_pos hr] at h
    rw [execDrwZero, onPlatform_hiRes, if_pos hr]
    exact checked_onPlatform p h
  · rw [execDrwZero, if_neg hr] at h
    cases h
    rw [execDrwZero, onPlatform_hiRes, if_neg hr]
    rfl

theorem execLdVxKey_onPlatform {x : VReg} (h : execLdVxKey x s = .next t) :
    execLdVxKey x (s.onPlatform p) = .next (t.onPlatform p) := by
  cases hw : s.waitForKey with
  | idle =>
    rw [execLdVxKey_idle hw] at h
    cases h
    rw [execLdVxKey_idle (s := s.onPlatform p) hw, onPlatform_anyKey, apply_ite (State.onPlatform · p)]
    rfl
  | armedAwaitingPress =>
    cases hk : s.firstKey with
    | none =>
      rw [execLdVxKey_armed_none hw hk] at h
      cases h
      exact execLdVxKey_armed_none (s := s.onPlatform p) hw hk
    | some k =>
      rw [execLdVxKey_armed_some hw hk] at h
      cases h
      exact execLdVxKey_armed_some (s := s.onPlatform p) hw hk
  | awaitingRelease =>
    cases hr : s.params.releaseCheck with
    | anyKey =>
      rw [execLdVxKey_awaiting_anyKey hw hr] at h
      cases h
      rw [execLdVxKey_awaiting_anyKey (s := s.onPlatform p) hw hr, onPlatform_anyKey, releaseStep_onPlatform]
    | recordedKey =>
      rw [execLdVxKey_awaiting_recordedKey hw hr] at h
      rw [execLdVxKey_awaiting_recordedKey (s := s.onPlatform p) hw hr]
      exact withKey_onPlatform p (releaseStep_onPlatform p s) h

/-- A meaning that is not one of the five commutes with a change of platform. Where the meaning is built of unconditional
writes the two sides are the same term; the others go through the lemma of their branching operation. -/
theorem exec_onPlatform {i : Instr} (hshift : ∀ x y, i ≠ .shrReg x y ∧ i ≠ .shlReg x y) (hjump : ∀ nnn, i ≠ .jpV0 nnn)
    (htransfer : ∀ x, i ≠ .storeRegs x ∧ i ≠ .loadRegs x) (h : exec i s = .next t) :
    exec i (s.onPlatform p) = .next (t.onPlatform p) := by
  cases i
  case shrReg x y => exact absurd rfl (hshift x y).1
  case shlReg x y => exact absurd rfl (hshift x y).2
  case jpV0 nnn => exact absurd rfl (hjump nnn)
  case storeRegs x => exact absurd rfl (htransfer x).1
  case loadRegs x => exact absurd rfl (htransfer x).2
  case ret | call | ldBcd | saveHp48 | loadHp48 | drw => exact checked_onPlatform p h
  case drwZero => exact execDrwZero_onPlatform p h
  case skp => exact withKey_onPlatform p (skipIf_onPlatform p s) h
  case sknp => exact withKey_onPlatform p (fun d => skipIf_onPlatform p s !d) h
  case ldVxKey => exact execLdVxKey_onPlatform p h
  case seImm | sneImm | seReg | sneReg => cases h; exact congrArg _ (skipIf_onPlatform p s _)
  case low | high => cases h; rw [apply_ite (State.onPlatform · p)]; rfl
  all_goals cases h; rfl

end platform

/-- Settles O59: every other instruction commutes with `State.onPlatform`. -/
theorem platformReadByFiveInstructions : Obligations.PlatformReadByFiveInstructions :=
  fun _ _ _ p hshift hjump htransfer h => exec_onPlatform p hshift hjump htransfer h

/-! ### What each instruction writes (10_state.md R128) -/

/-- The rows of the access table that an instruction can write, V register by register, the stack slots and SP as one. PC,
which every instruction writes, is left out. -/
inductive StateField where
  | memory
  | v (z : VReg)
  | i
  | stack
  | hp48
  | dt
  | st
  | screen
  | hiRes
  | screenUpdated
  | ended
  | waitForKey
  | rng

/-- Whether a field is as before. -/
def State.keeps (s t : State) : StateField → Prop
  | .memory => t.memory = s.memory
  | .v z => t.v[z] = s.v[z]
  | .i => t.i = s.i
  | .stack => t.stack = s.stack ∧ t.sp = s.sp
  | .hp48 => t.hp48 = s.hp48
  | .dt => t.dt = s.dt
  | .st => t.st = s.st
  | .screen => t.screen = s.screen
  | .hiRes => t.hiRes = s.hiRes
  | .screenUpdated => t.screenUpdated = s.screenUpdated
  | .ended => t.ended = s.ended
  | .waitForKey => t.waitForKey = s.waitForKey
  | .rng => t.rng = s.rng

/-- V0 to Vx, the registers Fx65 and Fx85 load. -/
def fieldsUpTo (x : VReg) : List StateField := ((List.finRange 16).filter (· ≤ x)).map .v

theorem mem_fieldsUpTo {x : VReg} {f : StateField} : f ∈ fieldsUpTo x ↔ ∃ z ≤ x, f = .v z := by
  simp [fieldsUpTo, eq_comm]

/-- The "written by" column, read from the instruction's side: the fields each instruction may write. -/
def writes : Instr → List StateField
  | .cls | .scd _ | .scr | .scl => [.screen, .screenUpdated]
  | .ret | .call _ => [.stack]
  | .exitProgram => [.ended]
  | .low | .high => [.hiRes, .screenUpdated]
  | .sys _ | .jp _ | .jpV0 _ | .seImm _ _ | .sneImm _ _ | .seReg _ _ | .sneReg _ _ | .skp _ | .sknp _ => []
  | .ldImm x _ | .addImm x _ | .ldReg x _ | .orReg x _ | .andReg x _ | .xorReg x _ | .ldVxDt x => [.v x]
  | .addReg x _ | .subReg x _ | .shrReg x _ | .subnReg x _ | .shlReg x _ => [.v x, .v 15]
  | .rnd x _ => [.rng, .v x]
  | .drwZero _ _ | .drw _ _ _ => [.screen, .screenUpdated, .v 15]
  | .ldVxKey x => [.v x, .waitForKey]
  | .ldDtVx _ => [.dt]
  | .ldStVx _ => [.st]
  | .ldI _ | .addI _ | .ldFont _ | .ldHiFont _ => [.i]
  | .ldBcd _ => [.memory]
  | .storeRegs _ => [.memory, .i]
  | .loadRegs x => fieldsUpTo x ++ [.i]
  | .saveHp48 _ => [.hp48]
  | .loadHp48 x => fieldsUpTo x

/-- The "written by" column, read from the field's side as the table prints it: whether an instruction is named as a writer
of the field. -/
def mayWrite (i : Instr) : StateField → Prop
  | .memory => ∃ x, i = .ldBcd x ∨ i = .storeRegs x
  | .v z =>
    (∃ kk, i = .ldImm z kk ∨ i = .addImm z kk ∨ i = .rnd z kk) ∨
    (∃ y, i = .ldReg z y ∨ i = .orReg z y ∨ i = .andReg z y ∨ i = .xorReg z y) ∨
    (∃ x y, (z = x ∨ z = 15) ∧
      (i = .addReg x y ∨ i = .subReg x y ∨ i = .shrReg x y ∨ i = .subnReg x y ∨ i = .shlReg x y)) ∨
    (i = .ldVxDt z ∨ i = .ldVxKey z) ∨ (∃ x, z ≤ x ∧ (i = .loadRegs x ∨ i = .loadHp48 x)) ∨
    (z = 15 ∧ ∃ x y, i = .drwZero x y ∨ ∃ n, i = .drw x y n)
  | .i => (∃ nnn, i = .ldI nnn) ∨
    ∃ x, i = .addI x ∨ i = .ldFont x ∨ i = .ldHiFont x ∨ i = .storeRegs x ∨ i = .loadRegs x
  | .stack => i = .ret ∨ ∃ nnn, i = .call nnn
  | .hp48 => ∃ x, i = .saveHp48 x
  | .dt => ∃ x, i = .ldDtVx x
  | .st => ∃ x, i = .ldStVx x
  | .screen => i ∈ [.cls, .scr, .scl] ∨ (∃ n, i = .scd n) ∨ ∃ x y, i = .drwZero x y ∨ ∃ n, i = .drw x y n
  | .hiRes => i ∈ [.low, .high]
  | .screenUpdated => i ∈ [.cls, .scr, .scl, .low, .high] ∨ (∃ n, i = .scd n) ∨
    ∃ x y, i = .drwZero x y ∨ ∃ n, i = .drw x y n
  | .ended => i = .exitProgram
  | .waitForKey => ∃ x, i = .ldVxKey x
  | .rng => ∃ x kk, i = .rnd x kk

/-- What the instruction's side lists, the field's side names. -/
theorem mayWrite_of_mem_writes (i : Instr) : ∀ f ∈ writes i, mayWrite i f := by
  cases i <;> simp [writes, mayWrite, fieldsUpTo, or_imp, forall_and]

section keeps
variable {s t u : State} {f : StateField} {x : VReg}

theorem keeps_refl (s : State) (f : StateField) : s.keeps s f := by cases f <;> simp [State.keeps]

theorem keeps_trans (h : s.keeps t f) (h' : t.keeps u f) : s.keeps u f := by cases f <;> simp_all [State.keeps]

/-- Two operations, one after the other, keep what neither of them names. -/
theorem keeps_append {fs gs : List StateField} (ht : f ∉ fs → s.keeps t f) (hu : f ∉ gs → t.keeps u f)
    (h : f ∉ fs ++ gs) : s.keeps u f := by
  rw [List.mem_append, not_or] at h
  exact keeps_trans (ht h.1) (hu h.2)

/-! One rule per operation: it keeps every field but those it names. -/

theorem keeps_raise (kind : Violation) : s.keeps (raise kind s) f := by cases f <;> simp [State.keeps]

theorem keeps_jumpTo {w : Word} : s.keeps (s.jumpTo w) f := by cases f <;> simp [State.keeps]

theorem keeps_skipIf {c : Bool} : s.keeps (s.skipIf c) f := by cases f <;> simp [State.keeps]

theorem keeps_rewind : s.keeps s.rewind f := keeps_jumpTo

theorem keeps_writeV {b : Byte} (h : f ∉ [.v x]) : s.keeps (s.writeV x b) f := by
  cases f with
  | v z => exact writeV_getElem_ne s x z b fun e => h (by simp [e])
  | _ => simp [State.keeps]

theorem keeps_writeFlagged {b : Byte} {c : Bool} : f ∉ [.v x, .v 15] → s.keeps (s.writeFlagged x b c) f :=
  keeps_append keeps_writeV keeps_writeV

theorem keeps_loadV {bytes : VReg → Byte} (h : f ∉ fieldsUpTo x) : s.keeps (s.loadV x bytes) f := by
  cases f with
  | v z => exact (loadV_getElem s x z bytes).trans (if_neg fun hz => h (mem_fieldsUpTo.2 ⟨z, hz, rfl⟩))
  | _ => simp [State.keeps]

theorem keeps_writeScreen {scr : Screen} (h : f ∉ [.screen, .screenUpdated]) : s.keeps (s.writeScreen scr) f := by
  cases f <;> simp_all [State.keeps]

theorem keeps_finishDraw {drawn : Screen × Bool} : f ∉ [.screen, .screenUpdated, .v 15] → s.keeps (s.finishDraw drawn) f :=
  keeps_append keeps_writeScreen keeps_writeV

theorem keeps_setHiRes {b : Bool} (h : f ∉ [.hiRes, .screenUpdated]) : s.keeps (s.setHiRes b) f := by
  cases f <;> simp_all [State.keeps]

theorem keeps_push {w : Word} (h : f ∉ [.stack]) : s.keeps (s.push w) f := by cases f <;> simp_all [State.keeps]

theorem keeps_pop (h : f ∉ [.stack]) : s.keeps s.pop f := by cases f <;> simp_all [State.keeps]

theorem keeps_setEnded (h : f ∉ [.ended]) : s.keeps s.setEnded f := by cases f <;> simp_all [State.keeps]

theorem keeps_setWait {w : KeyWait} (h : f ∉ [.waitForKey]) : s.keeps (s.setWait w) f := by
  cases f <;> simp_all [State.keeps]

theorem keeps_setI {w : Word} (h : f ∉ [.i]) : s.keeps (s.setI w) f := by cases f <;> simp_all [State.keeps]

theorem keeps_advanceI {n : Nat} : f ∉ [.i] → s.keeps (s.advanceI n) f := keeps_setI

theorem keeps_setDt {b : Byte} (h : f ∉ [.dt]) : s.keeps (s.setDt b) f := by cases f <;> simp_all [State.keeps]

theorem keeps_setSt {b : Byte} (h : f ∉ [.st]) : s.keeps (s.setSt b) f := by cases f <;> simp_all [State.keeps]

theorem keeps_writeBytes {a : Nat} {bs : List Byte} (h : f ∉ [.memory]) : s.keeps (s.writeBytes a bs) f := by
  cases f <;> simp_all [State.keeps]

theorem keeps_storeHp48 (h : f ∉ [.hp48]) : s.keeps (s.storeHp48 x) f := by cases f <;> simp_all [State.keeps]

theorem keeps_stepRng (h : f ∉ [.rng]) : s.keeps s.stepRng f := by cases f <;> simp_all [State.keeps]

theorem keeps_releaseStep {held : Bool} (h : f ∉ [.waitForKey]) : s.keeps (releaseStep s held) f := by
  cases held with
  | false => exact keeps_setWait h
  | true => exact keeps_rewind

/-- A violation taken keeps every field, so a checked instruction keeps what its effect keeps. -/
theorem keeps_checked {violation : Option Violation} {e : State} (h : checked violation s e = .next t)
    (he : s.keeps e f) : s.keeps t f := by
  rcases checked_cases h with ⟨kind, -, ht⟩ | ⟨-, ht⟩ <;> cases ht
  · exact keeps_raise kind
  · exact he

theorem keeps_withKey {b : Byte} {e : Bool → State} (h : withKey b s e = .next t) (he : ∀ d, s.keeps (e d) f) :
    s.keeps t f := by
  rcases withKey_cases b s e with ⟨_, ht⟩ | ⟨_, ht⟩ <;> cases h.symm.trans ht
  · exact keeps_raise _
  · exact he _

theorem execDrwZero_keeps {y : VReg} (h : execDrwZero x y s = .next t) (hf : f ∉ writes (.drwZero x y)) :
    s.keeps t f := by
  rw [execDrwZero] at h
  split at h
  · exact keeps_checked h (keeps_finishDraw hf)
  · cases h; exact keeps_finishDraw hf

theorem execLdVxKey_keeps (h : execLdVxKey x s = .next t) (hf : f ∉ writes (.ldVxKey x)) : s.keeps t f := by
  have hwait : f ∉ [.waitForKey] := List.not_mem_of_not_mem_cons hf
  cases hw : s.waitForKey with
  | idle =>
    rw [execLdVxKey_idle hw] at h
    cases h
    split
    · exact keeps_trans keeps_rewind (keeps_setWait hwait)
    · exact keeps_rewind
  | armedAwaitingPress =>
    cases hk : s.firstKey with
    | none =>
      rw [execLdVxKey_armed_none hw hk] at h
      cases h
      exact keeps_rewind
    | some k =>
      rw [execLdVxKey_armed_some hw hk] at h
      cases h
      exact keeps_trans keeps_rewind (keeps_append keeps_writeV keeps_setWait hf)
  | awaitingRelease =>
    cases hr : s.params.releaseCheck with
    | anyKey =>
      rw [execLdVxKey_awaiting_anyKey hw hr] at h
      cases h
      exact keeps_releaseStep hwait
    | recordedKey =>
      rw [execLdVxKey_awaiting_recordedKey hw hr] at h
      exact keeps_withKey h fun _ => keeps_releaseStep hwait

/-- The frame of every instruction: it keeps each field it does not list. -/
theorem exec_keeps {i : Instr} (h : exec i s = .next t) (hf : f ∉ writes i) : s.keeps t f := by
  cases i
  case cls | scd | scr | scl => cases h; exact keeps_writeScreen hf
  case ret => exact keeps_checked h (keeps_trans (keeps_pop hf) keeps_jumpTo)
  case call => exact keeps_checked h (keeps_trans (keeps_push hf) keeps_jumpTo)
  case exitProgram => cases h; exact keeps_trans keeps_rewind (keeps_setEnded hf)
  case low => cases h; split; exacts [keeps_setHiRes hf, keeps_refl s f]
  case high => cases h; split; exacts [keeps_refl s f, keeps_setHiRes hf]
  case sys => cases h; exact keeps_refl s f
  case jp | jpV0 => cases h; exact keeps_jumpTo
  case seImm | sneImm | seReg | sneReg => cases h; exact keeps_skipIf
  case skp | sknp => exact keeps_withKey h fun _ => keeps_skipIf
  case ldImm | addImm | ldReg | orReg | andReg | xorReg | ldVxDt => cases h; exact keeps_writeV hf
  case addReg | subReg | shrReg | subnReg | shlReg => cases h; exact keeps_writeFlagged hf
  case rnd => cases h; exact keeps_append keeps_stepRng keeps_writeV hf
  case drw => exact keeps_checked h (keeps_finishDraw hf)
  case drwZero => exact execDrwZero_keeps h hf
  case ldVxKey => exact execLdVxKey_keeps h hf
  case ldDtVx => cases h; exact keeps_setDt hf
  case ldStVx => cases h; exact keeps_setSt hf
  case ldI | ldFont | ldHiFont => cases h; exact keeps_setI hf
  case addI => cases h; exact keeps_advanceI hf
  case ldBcd => exact keeps_checked h (keeps_writeBytes hf)
  case storeRegs => exact keeps_checked h (keeps_append keeps_writeBytes keeps_advanceI hf)
  case loadRegs => exact keeps_checked h (keeps_append keeps_loadV keeps_advanceI hf)
  case saveHp48 => exact keeps_checked h (keeps_storeHp48 hf)
  case loadHp48 => exact keeps_checked h (keeps_loadV hf)

end keeps

theorem keeps_or_mayWrite {i : Instr} {s t : State} (h : exec i s = .next t) (f : StateField) :
    s.keeps t f ∨ mayWrite i f :=
  or_iff_not_imp_right.2 fun hf => exec_keeps h fun hw => hf (mayWrite_of_mem_writes i f hw)

/-- The fields no instruction writes, whether it takes a violation or not. -/
theorem exec_config {i : Instr} {s t : State} (h : exec i s = .next t) :
    t.keypad = s.keypad ∧ t.opcode = s.opcode ∧ t.ipf = s.ipf ∧ t.platform = s.platform ∧
      t.initialized = s.initialized ∧ t.params = s.params := by
  rcases exec_cases h with ⟨kind, rfl⟩ | ⟨hu, -⟩
  · simp
  · exact ⟨hu.keypad, hu.opcode, hu.ipf, hu.platform, hu.initialized, hu.params⟩

/-- Settles O60, row by row of the access table. -/
theorem onlyListedInstructionsWrite : Obligations.OnlyListedInstructionsWrite := by
  intro i s t h
  have row := keeps_or_mayWrite h
  exact ⟨row .memory, row .i, row .stack, row .hp48, row .dt, row .st, row .screen, row .hiRes, row .screenUpdated,
    row .ended, row .waitForKey, row .rng, fun z => row (.v z), exec_config h⟩

end Sys2Proof.Machine
end

section
/-! Proofs of the family 20_memory.md (O16, O17, O18, O28, O30): what a byte write does to reads, why no step reaches a
protected font byte, and that reset, steps and host commands keep `State.Inv`. -/

namespace Sys2Proof.Machine

open Sys2Proof

/-! ### Byte writes (20_memory.md R212, R215) -/

/-- The fetched word is the two bytes at PC (20_memory.md R210). -/
theorem fetchedWord_eq (s : State) :
    s.fetchedWord = bigEndian (s.readByte s.pc.toNat) (s.readByte (s.pc.toNat + 1)) := rfl

/-- Settles O28: a fetch reads two bytes, each by the rule of `readByte_writeByte`. -/
theorem memoryReadsLastWrite : Obligations.MemoryReadsLastWrite := by
  intro s a b
  refine ⟨fun k => readByte_writeByte s a k b, rfl, ?_⟩
  rw [fetchedWord_eq, readByte_writeByte, readByte_writeByte, writeByte_pc]

/-! ### Checked writes (20_memory.md R205, R208) -/

/-- Bytes written after their check stand inside the memory, so they keep the canonical form. -/
theorem Memory.wf_writeList_of_writeCheck {p : Params} {m : Memory} (h : m.wf p) {a : Nat} {bs : List Byte}
    (hc : writeCheck p a bs.length = none) : (Memory.writeList p m a bs).wf p := by
  cases bs with
  | nil => exact h
  | cons b rest =>
    have hlast := (writeCheck_eq_none.1 hc).1 rest.length (by simp)
    refine Memory.wf_writeList h _ ?_
    rw [List.length_cons, memSize]
    omega

/-- An address among those of a checked write is no font byte, where writing one faults. -/
theorem not_inFont_of_writeCheck {p : Params} {a n k : Nat} (hc : writeCheck p a n = none)
    (hf : p.fontWriteFaults = true) (hk : a ≤ k ∧ k < a + n) : inFont k = false := by
  rw [Bool.eq_false_iff, Ne, inFont_iff]
  have := (writeCheck_eq_none.1 hc).2 hf (k - a) (by omega)
  rwa [Nat.add_sub_cancel' hk.1] at this

/-- A checked write leaves every font byte as it was, where writing one faults. -/
theorem readByte_writeBytes_of_inFont {s : State} {a k : Nat} {bs : List Byte}
    (hc : writeCheck s.params a bs.length = none) (hf : s.params.fontWriteFaults = true) (hk : inFont k = true) :
    (s.writeBytes a bs).readByte k = s.readByte k := by
  refine readByte_writeBytes_outside s a k bs ?_
  by_contra hin
  have := not_inFont_of_writeCheck hc hf (k := k) (by omega)
  rw [hk] at this
  cases this

/-- No meaning changes a font byte while writing one faults. -/
theorem exec_readByte_of_inFont {i : Instr} {s t : State} (h : exec i s = .next t)
    (hf : s.params.fontWriteFaults = true) {k : Nat} (hk : inFont k = true) : t.readByte k = s.readByte k := by
  rcases exec_cases h with ⟨kind, rfl⟩ | ⟨hu, hm | ⟨bs, hc, hm⟩⟩
  · rfl
  · exact readByte_congr hm hu.params k
  · exact (readByte_congr (s := s.writeBytes s.i.toNat bs) hm hu.params k).trans (readByte_writeBytes_of_inFont hc hf hk)

/-- Settles O30: a fetch writes no memory, and `exec_readByte_of_inFont` says it of the meaning. -/
theorem stepNeverChangesFonts : Obligations.StepNeverChangesFonts := by
  intro s t a hf h hlo hhi
  obtain ⟨-, h⟩ := step_next h
  rcases instructionStep_cases s with ⟨-, e⟩ | ⟨-, -, e⟩ | ⟨-, i, -, e⟩ <;> rw [e] at h
  · cases h; rfl
  · cases h; rfl
  · exact exec_readByte_of_inFont h hf (inFont_iff.2 ⟨hlo, hhi⟩)

/-! ### The invariant, one rule per operation -/

section invariant
variable {s t : State}

/-- The invariant reads five fields: where memory, parameters and slot 0 are as before, only the halt is left to say. -/
theorem State.Inv.of_halt (h : s.Inv) (hhalt : t.faulted = true ↔ ∃ kind, t.raised = some (.contractViolation kind))
    (hm : t.memory = s.memory := by rfl) (hp : t.params = s.params := by rfl)
    (hslot : t.stack[0] = s.stack[0] := by rfl) : t.Inv where
  memoryCanonical := by rw [hm, hp]; exact h.memoryCanonical
  oddMultiplier := by rw [hp]; exact h.oddMultiplier
  slotZero := hslot.trans h.slotZero
  fontsIntact := by rw [hm, hp]; exact h.fontsIntact
  haltedByViolation := hhalt

/-- A core without a fault record is not halted. -/
theorem State.Inv.not_faulted (h : s.Inv) (hr : s.raised = none) : s.faulted = false := by
  rw [Bool.eq_false_iff, Ne, h.haltedByViolation, hr]
  simp

theorem inv_raise (h : s.Inv) (kind : Violation) : (raise kind s).Inv :=
  h.of_halt ⟨fun _ => ⟨kind, rfl⟩, fun _ => rfl⟩

theorem inv_resume (h : s.Inv) (hf : s.faulted = false) : (resume s).Inv := h.of_halt (by simp [hf])

theorem inv_afterFetch (h : s.Inv) (hf : s.faulted = false) (op : Word) : (s.afterFetch op).Inv :=
  h.of_halt (by simp [hf])

theorem inv_raiseUnknown (h : s.Inv) (hf : s.faulted = false) (op fetchPc : Word) : (raiseUnknown op fetchPc s).Inv :=
  h.of_halt (by simp [hf])

theorem inv_writeBytes (h : s.Inv) {a : Nat} {bs : List Byte} (hc : writeCheck s.params a bs.length = none) :
    (s.writeBytes a bs).Inv where
  memoryCanonical := Memory.wf_writeList_of_writeCheck h.memoryCanonical hc
  oddMultiplier := h.oddMultiplier
  slotZero := h.slotZero
  fontsIntact hf c hmem := by
    rcases Memory.mem_writeList hmem with hin | hold
    · exact not_inFont_of_writeCheck hc hf hin
    · exact h.fontsIntact hf c hold
  haltedByViolation := h.haltedByViolation

/-! ### Steps -/

/-- What an instruction leaves untouched, with memory as before or as a checked write leaves it. -/
theorem exec_inv {i : Instr} (h : s.Inv) (he : exec i s = .next t) : t.Inv := by
  rcases exec_cases he with ⟨kind, rfl⟩ | ⟨hu, hstores⟩
  · exact inv_raise h kind
  · have hhalt : t.faulted = true ↔ ∃ kind, t.raised = some (.contractViolation kind) := by
      rw [hu.faulted, hu.raised]; exact h.haltedByViolation
    rcases hstores with hm | ⟨bs, hc, hm⟩
    · exact h.of_halt hhalt hm hu.params hu.slotZero
    · exact (inv_writeBytes h hc).of_halt hhalt hm hu.params hu.slotZero

theorem instructionStep_inv (h : s.Inv) (hf : s.faulted = false) (he : instructionStep s = .next t) : t.Inv := by
  rcases instructionStep_cases s with ⟨-, e⟩ | ⟨-, -, e⟩ | ⟨-, i, -, e⟩ <;> rw [e] at he
  · cases he; exact inv_raise h _
  · cases he; exact inv_raiseUnknown (inv_afterFetch h hf _) hf _ _
  · exact exec_inv (inv_afterFetch h hf _) he

/-- The loop goes on from states with no record alone, so from states that are not halted. -/
theorem cycleLoop_inv (n : Nat) (h : s.Inv) (hf : s.faulted = false) : (cycleLoop n s).2.Inv := by
  induction n generalizing s with
  | zero => exact h
  | succ n ih =>
    rw [cycleLoop]
    split
    · next t he =>
      have ht : t.Inv := instructionStep_inv h hf he
      split
      · next hr => exact ih ht (ht.not_faulted hr)
      · exact ht
    · exact h
    · exact h

/-! ### Host commands -/

theorem cmdCycle_inv (h : s.Inv) (hf : s.faulted = false) : (cmdCycle s).2.Inv :=
  cycleLoop_inv _ ((inv_resume h hf).of_halt (inv_resume h hf).haltedByViolation) hf

theorem inv_resetCore (hp : s.params.wf) (hf : s.faulted = false) : (resetCore s).Inv where
  memoryCanonical := Memory.wf_nil _
  oddMultiplier := hp
  slotZero := rfl
  fontsIntact _ _ hmem := absurd hmem List.not_mem_nil
  haltedByViolation := by simp [resetCore, State.reset, hf]

theorem cmdInit_inv (h : s.Inv) (hf : s.faulted = false) (hz : Int) (p : Platform) (seed : Seed) :
    (cmdInit hz p seed s).2.Inv := by
  have hr := inv_resetCore h.oddMultiplier hf
  rw [cmdInit]
  split
  · exact inv_raise h _
  · exact hr.of_halt hr.haltedByViolation

theorem cmdSoftReset_inv (h : s.Inv) (hf : s.faulted = false) : (cmdSoftReset s).2.Inv where
  memoryCanonical := h.memoryCanonical
  oddMultiplier := h.oddMultiplier
  slotZero := rfl
  fontsIntact := h.fontsIntact
  haltedByViolation := (inv_resetCore h.oddMultiplier hf).haltedByViolation

/-- A program that fits lies inside the memory and past the fonts. -/
theorem writeCheck_progStart {p : Params} {n : Nat} (hn : n ≤ progMax) : writeCheck p progStart n = none := by
  rw [progMax] at hn
  rw [progStart]
  exact writeCheck_eq_none.2 ⟨fun k _ => by omega, fun _ k _ => by omega⟩

theorem cmdLoadProgram_inv (h : s.Inv) (bytes : List Byte) : (cmdLoadProgram bytes s).2.Inv := by
  rw [cmdLoadProgram]
  split
  · exact inv_raise h _
  · next hn => exact inv_writeBytes h (writeCheck_progStart (not_lt.1 hn))

theorem cmdGetPixel_inv (h : s.Inv) (row col : Nat) : (cmdGetPixel row col s).2.Inv := by
  rw [cmdGetPixel]
  split
  · exact inv_raise h _
  · exact h

theorem cmdSetKey_inv (h : s.Inv) (k : Nat) (down : Bool) : (cmdSetKey k down s).2.Inv := by
  rw [cmdSetKey]
  split
  · exact h.of_halt h.haltedByViolation
  · exact inv_raise h _

theorem cmdSetFrequency_inv (h : s.Inv) (hz : Int) : (cmdSetFrequency hz s).2.Inv := by
  rw [cmdSetFrequency]
  split
  · exact inv_raise h _
  · exact h.of_halt h.haltedByViolation

theorem perform_inv (c : Command) (h : s.Inv) (hf : s.faulted = false) : (perform c s).2.Inv := by
  cases c with
  | init hz p seed => exact cmdInit_inv h hf hz p seed
  | loadProgram bytes => exact cmdLoadProgram_inv h bytes
  | cycle => exact cmdCycle_inv h hf
  | getPixel row col => exact cmdGetPixel_inv h row col
  | pressKey k => exact cmdSetKey_inv h k true
  | releaseKey k => exact cmdSetKey_inv h k false
  | setFrequency hz => exact cmdSetFrequency_inv h hz
  | softReset => exact cmdSoftReset_inv h hf
  | tickTimers | setPlatform => exact h.of_halt h.haltedByViolation
  | isSoundActive | isScreenUpdated | hasEnded | getLastOpcode => exact h

/-- A command answers only in a core that is not halted (48_host_interface.md R1202). -/
theorem issue_some {c : Command} {r : Response} (h : issue c s = some (r, t)) :
    s.faulted = false ∧ perform c s = (r, t) := by
  rw [issue] at h
  split at h
  · next ha =>
    rw [State.accepts, Bool.and_eq_true, Bool.not_eq_true'] at ha
    exact ⟨ha.1, Option.some.inj h⟩
  · cases h

end invariant

/-- The multiplier of the parameters at reset is made odd (log 6). -/
theorem params_standard_wf : Params.standard.wf := by simp [Params.wf, Params.standard]

/-- Settles O16: State.reset is what `resetCore` leaves of itself. -/
theorem invariantHoldsAtReset : Obligations.InvariantHoldsAtReset :=
  ⟨inv_resetCore (s := State.reset) params_standard_wf rfl, rfl⟩

/-- Settles O17: a step answers in a core that is not halted alone, and is there an instruction step. -/
theorem stepKeepsInvariant : Obligations.StepKeepsInvariant := by
  intro s t h hs
  obtain ⟨⟨-, hf⟩, he⟩ := step_next hs
  exact instructionStep_inv h hf he

/-- Settles O18, command by command. -/
theorem commandKeepsInvariant : Obligations.CommandKeepsInvariant := by
  intro c s t r h hi
  obtain ⟨hf, he⟩ := issue_some hi
  have := perform_inv c h hf
  rwa [he] at this

end Sys2Proof.Machine
end

section
/-! Proofs of the family 30_encoding.md (O1 to O5): the decoder and the encoder are inverse to each other on the well-formed
instructions, the words left over are those of R305, and the rows of R304 select the decoded instruction. -/

namespace Sys2Proof

/-! ### From the encoder's word to the instruction (30_encoding.md R303, R304) -/

/-- The lemmas of `RoundTrip`, one per constructor, taken together. -/
theorem decodeOp_encode : ∀ i : Instr, i.wellFormed = true → decodeOp (encode i) = some i
  | .cls => Laws.RoundTrip.cls
  | .scd n => Laws.RoundTrip.scd n
  | .scr => Laws.RoundTrip.scr
  | .scl => Laws.RoundTrip.scl
  | .ret => Laws.RoundTrip.ret
  | .exitProgram => Laws.RoundTrip.exitProgram
  | .low => Laws.RoundTrip.low
  | .high => Laws.RoundTrip.high
  | .sys nnn => Laws.RoundTrip.sys nnn
  | .jp nnn => Laws.RoundTrip.jp nnn
  | .call nnn => Laws.RoundTrip.call nnn
  | .seImm x kk => Laws.RoundTrip.seImm x kk
  | .sneImm x kk => Laws.RoundTrip.sneImm x kk
  | .seReg x y => Laws.RoundTrip.seReg x y
  | .ldImm x kk => Laws.RoundTrip.ldImm x kk
  | .addImm x kk => Laws.RoundTrip.addImm x kk
  | .ldReg x y => Laws.RoundTrip.ldReg x y
  | .orReg x y => Laws.RoundTrip.orReg x y
  | .andReg x y => Laws.RoundTrip.andReg x y
  | .xorReg x y => Laws.RoundTrip.xorReg x y
  | .addReg x y => Laws.RoundTrip.addReg x y
  | .subReg x y => Laws.RoundTrip.subReg x y
  | .shrReg x y => Laws.RoundTrip.shrReg x y
  | .subnReg x y => Laws.RoundTrip.subnReg x y
  | .shlReg x y => Laws.RoundTrip.shlReg x y
  | .sneReg x y => Laws.RoundTrip.sneReg x y
  | .ldI nnn => Laws.RoundTrip.ldI nnn
  | .jpV0 nnn => Laws.RoundTrip.jpV0 nnn
  | .rnd x kk => Laws.RoundTrip.rnd x kk
  | .drwZero x y => Laws.RoundTrip.drwZero x y
  | .drw x y n => Laws.RoundTrip.drw x y n
  | .skp x => Laws.RoundTrip.skp x
  | .sknp x => Laws.RoundTrip.sknp x
  | .ldVxDt x => Laws.RoundTrip.ldVxDt x
  | .ldVxKey x => Laws.RoundTrip.ldVxKey x
  | .ldDtVx x => Laws.RoundTrip.ldDtVx x
  | .ldStVx x => Laws.RoundTrip.ldStVx x
  | .addI x => Laws.RoundTrip.addI x
  | .ldFont x => Laws.RoundTrip.ldFont x
  | .ldHiFont x => Laws.RoundTrip.ldHiFont x
  | .ldBcd x => Laws.RoundTrip.ldBcd x
  | .storeRegs x => Laws.RoundTrip.storeRegs x
  | .loadRegs x => Laws.RoundTrip.loadRegs x
  | .saveHp48 x => Laws.RoundTrip.saveHp48 x
  | .loadHp48 x => Laws.RoundTrip.loadHp48 x

/-- Settles O1: the two bytes are the encoder's word, and the decoder reads that word back. -/
theorem decodeEncodeRoundTrip : Obligations.DecodeEncodeRoundTrip := by
  intro i rest h
  calc decode (encodeBytes i ++ rest)
      = (decodeWord (encode i)).map fun j => (j, rest) := decode_bytes (encode i) rest
    _ = .ok (i, rest) := by rw [decodeWord_of_decodeOp (decodeOp_encode i h)]; rfl

/-- Settles O5: these are closed words, and the decoder computes. -/
theorem writtenWordsDecode : Obligations.WrittenWordsDecode :=
  ⟨rfl, rfl, rfl, rfl, rfl, rfl, rfl, rfl, rfl, rfl, rfl, rfl, rfl, rfl, rfl, rfl⟩

/-! ### From a decoded word to the encoder's word (30_encoding.md R301, R303) -/

theorem opHi_lt (op : Word) : opHi op < 16 := (op.extractLsb' 12 4).isLt

@[simp] theorem opHi_mod (op : Word) : opHi op % 16 = opHi op := Nat.mod_eq_of_lt (opHi_lt op)

section fields
variable {op : Word} {hi : BitVec 4} (h : opHi op = hi.toNat)
include h

theorem ofNat_opHi : BitVec.ofNat 4 (opHi op) = hi := by
  rw [h, BitVec.ofNat_toNat, BitVec.setWidth_eq]

theorem packXKk_of_fields {kk : Byte} (hk : opKk op = kk) : packXKk hi (opX op) kk = op := by
  rw [← hk, ← ofNat_opHi h, packXKk_fields]

theorem packXYN_of_fields {n : Fin 16} (hn : opN op = n) : packXYN hi (opX op) (opY op) n = op := by
  rw [← hn, ← ofNat_opHi h, packXYN_fields]

theorem packNnn_of_fields : packNnn hi (opNnn op) = op := by
  rw [← ofNat_opHi h, packNnn_fields]

end fields

/-- The scroll word of group 0 has 0 as its `x` and C as its `y`. -/
theorem packXYN_of_highTwelve {op : Word} (h : op.extractLsb' 4 12 = 0x00C) : packXYN 0 0 0xC (opN op) = op := by
  have h := congrArg BitVec.toNat h
  apply BitVec.eq_of_toNat_eq
  rw [highTwelve_toNat] at h
  rw [packXYN_toNat, opN_val]
  simp at h ⊢
  omega

section group0
variable {op : Word} (h : opHi op = 0)
include h

theorem opNnn_eq_iff (nnn : Addr12) : opNnn op = nnn ↔ op = packNnn 0 nnn :=
  ⟨fun e => by rw [← e, packNnn_of_fields (hi := 0) h], fun e => by rw [e, opNnn_packNnn]⟩

theorem opNnn_highByte_eq_iff : (opNnn op).extractLsb' 4 8 = 0x0C ↔ op.extractLsb' 4 12 = 0x00C := by
  have hlt : op.toNat < 4096 := by rw [opHi_eq] at h; omega
  rw [← BitVec.toNat_inj, ← BitVec.toNat_inj, highTwelve_toNat, BitVec.extractLsb'_toNat, opNnn_toNat,
    Nat.shiftRight_eq_div_pow]
  simp
  omega

/-- The `nnn` that SYS gives up are those of the words of the other group-0 rows. -/
theorem sysTaken_opNnn_iff :
    sysTaken (opNnn op) = true ↔ op = 0x00E0 ∨ op.extractLsb' 4 12 = 0x00C ∨ op = 0x00FB ∨ op = 0x00FC ∨ op = 0x00EE ∨
      op = 0x00FD ∨ op = 0x00FE ∨ op = 0x00FF := by
  simp only [sysTaken, Bool.or_eq_true, beq_iff_eq, opNnn_eq_iff h, opNnn_highByte_eq_iff h, or_assoc]
  rfl

end group0

/-- The word is the one the encoder writes for the instruction, and the instruction is one of the table. -/
def Encodes (op : Word) (i : Instr) : Prop := i.wellFormed = true ∧ encode i = op

section groups
variable {op : Word} {i : Instr}

theorem encodes_decodeGroup0 (h : opHi op = 0) : Encodes op (decodeGroup0 op) := by
  rw [decodeGroup0]
  split_ifs with h1 h2 h3 h4 h5 h6 h7 h8
  case pos => exact ⟨rfl, h1.symm⟩
  case pos => exact ⟨rfl, packXYN_of_highTwelve h2⟩
  case neg =>
    have free : ¬sysTaken (opNnn op) = true := by
      rw [sysTaken_opNnn_iff h]
      simp only [h1, h2, h3, h4, h5, h6, h7, h8, or_self, not_false_eq_true]
    exact ⟨by simpa [Instr.wellFormed] using free, packNnn_of_fields (hi := 0) h⟩
  all_goals exact ⟨rfl, Eq.symm ‹_›⟩

theorem encodes_of_decodeGroup8 (h : opHi op = 8) (hd : decodeGroup8 op = some i) : Encodes op i := by
  unfold decodeGroup8 at hd
  split at hd <;> cases hd <;> exact ⟨rfl, packXYN_of_fields h (Fin.ext ‹_›)⟩

theorem encodes_of_decodeGroupE (h : opHi op = 0xE) (hd : decodeGroupE op = some i) : Encodes op i := by
  unfold decodeGroupE at hd
  split at hd <;> cases hd <;> exact ⟨rfl, packXKk_of_fields h (BitVec.eq_of_toNat_eq ‹_›)⟩

theorem encodes_of_decodeGroupF (h : opHi op = 0xF) (hd : decodeGroupF op = some i) : Encodes op i := by
  unfold decodeGroupF at hd
  split at hd <;> cases hd <;> exact ⟨rfl, packXKk_of_fields h (BitVec.eq_of_toNat_eq ‹_›)⟩

/-- The decoder's arms in their order, the arm of `hi` being number `hi + 1`. -/
theorem encodes_of_decodeOp (hd : decodeOp op = some i) : Encodes op i := by
  unfold decodeOp at hd
  split at hd
  case h_1 h => cases hd; exact encodes_decodeGroup0 h
  case h_6 h | h_10 h =>
    split at hd
    case isTrue hn => cases hd; exact ⟨rfl, packXYN_of_fields h hn⟩
    case isFalse => cases hd
  case h_9 h => exact encodes_of_decodeGroup8 h hd
  case h_14 h =>
    cases hd
    split
    case isTrue hn => exact ⟨rfl, packXYN_of_fields h hn⟩
    case isFalse hn => exact ⟨by simpa [Instr.wellFormed] using hn, packXYN_of_fields h rfl⟩
  case h_15 h => exact encodes_of_decodeGroupE h hd
  case h_16 h => exact encodes_of_decodeGroupF h hd
  case h_17 => cases hd
  case h_2 h | h_3 h | h_11 h | h_12 h => cases hd; exact ⟨rfl, packNnn_of_fields h⟩
  case h_4 h | h_5 h | h_7 h | h_8 h | h_13 h => cases hd; exact ⟨rfl, packXKk_of_fields h rfl⟩

end groups

/-- Settles O2: group by group, the decoded instruction carries the fields of the word. -/
theorem encodeDecodeRoundTrip : Obligations.EncodeDecodeRoundTrip :=
  fun _ _ h => encodes_of_decodeOp (decodeWord_ok h)

/-! ### The unknown words (30_encoding.md R305) -/

section unknown
variable (op : Word)

theorem decodeWord_unknown_iff : decodeWord op = .error (.unknownOpcode op) ↔ decodeOp op = none :=
  ⟨fun h => (decodeWord_error h).2, fun h => by rw [decodeWord, h]⟩

theorem decodeGroup8_eq_none_iff :
    decodeGroup8 op = none ↔ (opN op).val ∈ [0x8, 0x9, 0xA, 0xB, 0xC, 0xD, 0xF] := by
  have := (opN op).isLt
  unfold decodeGroup8
  split <;> simp_all
  omega

theorem decodeGroupE_eq_none_iff : decodeGroupE op = none ↔ (opKk op).toNat ∉ [0x9E, 0xA1] := by
  unfold decodeGroupE
  split <;> simp_all

theorem decodeGroupF_eq_none_iff :
    decodeGroupF op = none ↔
      (opKk op).toNat ∉ [0x07, 0x0A, 0x15, 0x18, 0x1E, 0x29, 0x30, 0x33, 0x55, 0x65, 0x75, 0x85] := by
  unfold decodeGroupF
  split <;> simp_all

theorem decodeOp_eq_none_iff :
    decodeOp op = none ↔
      (opHi op = 0x5 ∧ (opN op).val ≠ 0) ∨ (opHi op = 0x8 ∧ decodeGroup8 op = none) ∨
      (opHi op = 0x9 ∧ (opN op).val ≠ 0) ∨ (opHi op = 0xE ∧ decodeGroupE op = none) ∨
      (opHi op = 0xF ∧ decodeGroupF op = none) := by
  have := opHi_lt op
  unfold decodeOp
  split <;> simp_all
  omega

end unknown

/-- Settles O3: the groups with unknown words are 5, 8, 9, E and F, and each leaves out what its sub-opcode does not name. -/
theorem unknownWordsAreThoseOfTheTable : Obligations.UnknownWordsAreThoseOfTheTable := by
  intro op
  show decodeWord op = .error (.unknownOpcode op) ↔ _
  rw [decodeWord_unknown_iff, decodeOp_eq_none_iff, decodeGroup8_eq_none_iff, decodeGroupE_eq_none_iff,
    decodeGroupF_eq_none_iff, opHi_eq, opN_val, opKk_toNat]

/-! ### The rows of the table (30_encoding.md R304) -/

/-! A mask of the table keeps whole fields of the word. -/

section masks
variable (op : Word)

theorem nibbles_and (a b c d p q r s : BitVec 4) :
    (a ++ b ++ c ++ d) &&& (p ++ q ++ r ++ s) = (a &&& p) ++ (b &&& q) ++ (c &&& r) ++ (d &&& s) := by
  simp only [BitVec.and_append]

theorem nibbles_byte_and (a b p q : BitVec 4) (kk r : Byte) :
    (a ++ b ++ kk) &&& (p ++ q ++ r) = (a &&& p) ++ (b &&& q) ++ (kk &&& r) := by
  simp only [BitVec.and_append]

theorem and_FFF0 : op &&& 0xFFF0 = packXYN (BitVec.ofNat 4 (opHi op)) (opX op) (opY op) 0 := by
  conv_lhs => rw [← packXYN_fields op]
  refine (nibbles_and _ _ _ _ (BitVec.allOnes 4) (BitVec.allOnes 4) (BitVec.allOnes 4) 0#4).trans ?_
  simp only [BitVec.and_allOnes, BitVec.and_zero]
  rfl

theorem and_F000 : op &&& 0xF000 = packXYN (BitVec.ofNat 4 (opHi op)) 0 0 0 := by
  conv_lhs => rw [← packXYN_fields op]
  refine (nibbles_and _ _ _ _ (BitVec.allOnes 4) 0#4 0#4 0#4).trans ?_
  simp only [BitVec.and_allOnes, BitVec.and_zero]
  rfl

theorem and_F00F : op &&& 0xF00F = packXYN (BitVec.ofNat 4 (opHi op)) 0 0 (opN op) := by
  conv_lhs => rw [← packXYN_fields op]
  refine (nibbles_and _ _ _ _ (BitVec.allOnes 4) 0#4 0#4 (BitVec.allOnes 4)).trans ?_
  simp only [BitVec.and_allOnes, BitVec.and_zero]
  rfl

theorem and_F0FF : op &&& 0xF0FF = packXKk (BitVec.ofNat 4 (opHi op)) 0 (opKk op) := by
  conv_lhs => rw [← packXKk_fields op]
  refine (nibbles_byte_and _ _ (BitVec.allOnes 4) 0#4 _ (BitVec.allOnes 8)).trans ?_
  simp only [BitVec.and_allOnes, BitVec.and_zero]
  rfl

end masks

/-- The fields that a row's mask keeps are those the encoder fixes for the row. -/
theorem encode_and_mask (j : Instr) : encode j &&& (tableRow j).2.1 = (tableRow j).1 := by
  cases j <;>
    simp only [encode, tableRow, and_FFF0, and_F000, and_F00F, and_F0FF, opHi_packXKk, opHi_packXYN, opHi_packNnn,
      opX_packXYN, opY_packXYN, opN_packXYN, opKk_packXKk] <;> rfl

section rows
variable {op : Word} {hi : BitVec 4}

theorem eq_of_and_FFFF {w : Word} (h : op &&& 0xFFFF = w) : w = op := h.symm.trans BitVec.and_allOnes

theorem packXYN_of_and_FFF0 {x y : VReg} (h : op &&& 0xFFF0 = packXYN hi x y 0) : packXYN hi x y (opN op) = op := by
  rw [and_FFF0] at h
  have hx : opX op = x := by simpa using congrArg opX h
  have hy : opY op = y := by simpa using congrArg opY h
  rw [← hx, ← hy]
  exact packXYN_of_fields (by simpa using congrArg opHi h) rfl

theorem opHi_of_and_F000 (h : op &&& 0xF000 = packXYN hi 0 0 0) : opHi op = hi.toNat := by
  rw [and_F000] at h
  simpa using congrArg opHi h

theorem packNnn_of_and_F000 (h : op &&& 0xF000 = packXYN hi 0 0 0) : packNnn hi (opNnn op) = op :=
  packNnn_of_fields (opHi_of_and_F000 h)

theorem packXKk_of_and_F000 (h : op &&& 0xF000 = packXYN hi 0 0 0) : packXKk hi (opX op) (opKk op) = op :=
  packXKk_of_fields (opHi_of_and_F000 h) rfl

theorem packXYN_of_and_F000 (h : op &&& 0xF000 = packXYN hi 0 0 0) : packXYN hi (opX op) (opY op) (opN op) = op :=
  packXYN_of_fields (opHi_of_and_F000 h) rfl

theorem packXYN_of_and_F00F {n : Fin 16} (h : op &&& 0xF00F = packXYN hi 0 0 n) :
    packXYN hi (opX op) (opY op) n = op := by
  rw [and_F00F] at h
  exact packXYN_of_fields (by simpa using congrArg opHi h) (by simpa using congrArg opN h)

theorem packXKk_of_and_F0FF {kk : Byte} (h : op &&& 0xF0FF = packXKk hi 0 kk) : packXKk hi (opX op) kk = op := by
  rw [and_F0FF] at h
  exact packXKk_of_fields (by simpa using congrArg opHi h) (by simpa using congrArg opKk h)

/-- A word that matches a row is encoded by an instruction of that row, the one with the word's own operands. -/
theorem exists_encode_of_matches :
    ∀ {j : Instr}, op &&& (tableRow j).2.1 = (tableRow j).1 → ∃ i, tableRow i = tableRow j ∧ encode i = op
  | .cls, h => ⟨.cls, rfl, eq_of_and_FFFF h⟩
  | .scd _, h => ⟨.scd (opN op), rfl, packXYN_of_and_FFF0 h⟩
  | .scr, h => ⟨.scr, rfl, eq_of_and_FFFF h⟩
  | .scl, h => ⟨.scl, rfl, eq_of_and_FFFF h⟩
  | .ret, h => ⟨.ret, rfl, eq_of_and_FFFF h⟩
  | .exitProgram, h => ⟨.exitProgram, rfl, eq_of_and_FFFF h⟩
  | .low, h => ⟨.low, rfl, eq_of_and_FFFF h⟩
  | .high, h => ⟨.high, rfl, eq_of_and_FFFF h⟩
  | .sys _, h => ⟨.sys (opNnn op), rfl, packNnn_of_and_F000 h⟩
  | .jp _, h => ⟨.jp (opNnn op), rfl, packNnn_of_and_F000 h⟩
  | .call _, h => ⟨.call (opNnn op), rfl, packNnn_of_and_F000 h⟩
  | .seImm _ _, h => ⟨.seImm (opX op) (opKk op), rfl, packXKk_of_and_F000 h⟩
  | .sneImm _ _, h => ⟨.sneImm (opX op) (opKk op), rfl, packXKk_of_and_F000 h⟩
  | .seReg _ _, h => ⟨.seReg (opX op) (opY op), rfl, packXYN_of_and_F00F h⟩
  | .ldImm _ _, h => ⟨.ldImm (opX op) (opKk op), rfl, packXKk_of_and_F000 h⟩
  | .addImm _ _, h => ⟨.addImm (opX op) (opKk op), rfl, packXKk_of_and_F000 h⟩
  | .ldReg _ _, h => ⟨.ldReg (opX op) (opY op), rfl, packXYN_of_and_F00F h⟩
  | .orReg _ _, h => ⟨.orReg (opX op) (opY op), rfl, packXYN_of_and_F00F h⟩
  | .andReg _ _, h => ⟨.andReg (opX op) (opY op), rfl, packXYN_of_and_F00F h⟩
  | .xorReg _ _, h => ⟨.xorReg (opX op) (opY op), rfl, packXYN_of_and_F00F h⟩
  | .addReg _ _, h => ⟨.addReg (opX op) (opY op), rfl, packXYN_of_and_F00F h⟩
  | .subReg _ _, h => ⟨.subReg (opX op) (opY op), rfl, packXYN_of_and_F00F h⟩
  | .shrReg _ _, h => ⟨.shrReg (opX op) (opY op), rfl, packXYN_of_and_F00F h⟩
  | .subnReg _ _, h => ⟨.subnReg (opX op) (opY op), rfl, packXYN_of_and_F00F h⟩
  | .shlReg _ _, h => ⟨.shlReg (opX op) (opY op), rfl, packXYN_of_and_F00F h⟩
  | .sneReg _ _, h => ⟨.sneReg (opX op) (opY op), rfl, packXYN_of_and_F00F h⟩
  | .ldI _, h => ⟨.ldI (opNnn op), rfl, packNnn_of_and_F000 h⟩
  | .jpV0 _, h => ⟨.jpV0 (opNnn op), rfl, packNnn_of_and_F000 h⟩
  | .rnd _ _, h => ⟨.rnd (opX op) (opKk op), rfl, packXKk_of_and_F000 h⟩
  | .drwZero _ _, h => ⟨.drwZero (opX op) (opY op), rfl, packXYN_of_and_F00F h⟩
  | .drw _ _ _, h => ⟨.drw (opX op) (opY op) (opN op), rfl, packXYN_of_and_F000 h⟩
  | .skp _, h => ⟨.skp (opX op), rfl, packXKk_of_and_F0FF h⟩
  | .sknp _, h => ⟨.sknp (opX op), rfl, packXKk_of_and_F0FF h⟩
  | .ldVxDt _, h => ⟨.ldVxDt (opX op), rfl, packXKk_of_and_F0FF h⟩
  | .ldVxKey _, h => ⟨.ldVxKey (opX op), rfl, packXKk_of_and_F0FF h⟩
  | .ldDtVx _, h => ⟨.ldDtVx (opX op), rfl, packXKk_of_and_F0FF h⟩
  | .ldStVx _, h => ⟨.ldStVx (opX op), rfl, packXKk_of_and_F0FF h⟩
  | .addI _, h => ⟨.addI (opX op), rfl, packXKk_of_and_F0FF h⟩
  | .ldFont _, h => ⟨.ldFont (opX op), rfl, packXKk_of_and_F0FF h⟩
  | .ldHiFont _, h => ⟨.ldHiFont (opX op), rfl, packXKk_of_and_F0FF h⟩
  | .ldBcd _, h => ⟨.ldBcd (opX op), rfl, packXKk_of_and_F0FF h⟩
  | .storeRegs _, h => ⟨.storeRegs (opX op), rfl, packXKk_of_and_F0FF h⟩
  | .loadRegs _, h => ⟨.loadRegs (opX op), rfl, packXKk_of_and_F0FF h⟩
  | .saveHp48 _, h => ⟨.saveHp48 (opX op), rfl, packXKk_of_and_F0FF h⟩
  | .loadHp48 _, h => ⟨.loadHp48 (opX op), rfl, packXKk_of_and_F0FF h⟩

theorem matches_of_decodeOp {i : Instr} (h : decodeOp op = some i) : op &&& (tableRow i).2.1 = (tableRow i).1 := by
  obtain ⟨-, rfl⟩ := encodes_of_decodeOp h
  exact encode_and_mask i

end rows

/-- The terms that are not well formed are of the two rows that yield to another, and no word of those two is unknown. -/
theorem wellFormed_or_yields (i : Instr) :
    i.wellFormed = true ∨ (tableRow i).2.2 = 1 ∧ ∃ k, decodeOp (encode i) = some k := by
  cases i
  case sys nnn => exact .inr ⟨rfl, decodeGroup0 _, by rw [decodeOp, encode, opHi_packNnn]; rfl⟩
  case drw x y n => exact .inr ⟨rfl, _, by rw [decodeOp, encode, opHi_packXYN]; rfl⟩
  all_goals exact .inl rfl

theorem priority_le_one (i : Instr) : (tableRow i).2.2 ≤ 1 := by
  cases i <;> simp [tableRow]

/-- Settles O4: a word that matches a row carries the row's fixed fields, so it is the encoder's word for a term of
the row. If the term is well formed, it is the one decoded; if not, the row is one of the two that yield. -/
theorem rowsSelectByMatchAndMask : Obligations.RowsSelectByMatchAndMask := by
  refine ⟨fun op i h => matches_of_decodeOp (decodeWord_ok h), fun op j h => ?_⟩
  obtain ⟨i, hrow, rfl⟩ := exists_encode_of_matches h
  obtain hwf | ⟨hyields, k, hk⟩ := wellFormed_or_yields i
  · have hd := decodeOp_encode i hwf
    exact ⟨i, decodeWord_of_decodeOp hd, matches_of_decodeOp hd, by rw [hrow]⟩
  · exact ⟨k, decodeWord_of_decodeOp hk, matches_of_decodeOp hk, by rw [← hrow, hyields]; exact priority_le_one k⟩

end Sys2Proof
end

section
/-! Proofs of the family 40_cycle.md (O19, O20, O22, O23, O24): what one instruction step answers, and the cycle loop as its
iteration up to the first fault. -/

namespace Sys2Proof.Machine

open Sys2Proof

/-! ### The instruction step (40_cycle.md R402, R403, R408) -/

section instructionStep
variable {s t : State}

/-- A step gives a next state, whatever the word at PC (60_exceptions.md R1300). -/
theorem instructionStep_next (s : State) : ∃ t, instructionStep s = .next t := by
  rcases instructionStep_cases s with ⟨-, e⟩ | ⟨-, -, e⟩ | ⟨-, i, -, e⟩
  · exact ⟨_, e⟩
  · exact ⟨_, e⟩
  · rw [e]; exact exec_next i _

/-- The fields no step writes: the fetch and the two fault records leave them alone, and so does every meaning. -/
theorem instructionStep_config (h : instructionStep s = .next t) :
    t.initialized = s.initialized ∧ t.params = s.params ∧ t.keypad = s.keypad ∧ t.ipf = s.ipf ∧
      t.platform = s.platform := by
  rcases instructionStep_cases s with ⟨-, e⟩ | ⟨-, -, e⟩ | ⟨-, i, -, e⟩ <;> rw [e] at h
  · cases h; exact ⟨rfl, rfl, rfl, rfl, rfl⟩
  · cases h; exact ⟨rfl, rfl, rfl, rfl, rfl⟩
  · obtain ⟨hkeypad, -, hipf, hplatform, hinitialized, hparams⟩ := exec_config h
    exact ⟨hinitialized, hparams, hkeypad, hipf, hplatform⟩

theorem instructionStep_of_pc_gt (hp : 4094 < s.pc.toNat) : instructionStep s = .next (raise .fetchOutOfRange s) := by
  rcases instructionStep_cases s with ⟨-, e⟩ | ⟨hle, -⟩ | ⟨hle, -⟩
  · exact e
  · omega
  · omega

/-- A step on 00FD: the rewind takes back the fetch's move of PC (41_group0_system.md R505). -/
theorem instructionStep_exit (hp : s.pc.toNat ≤ 4094) (hw : s.fetchedWord = 0x00FD) :
    instructionStep s = .next { s with ended := true, opcode := 0x00FD, raised := none } := by
  have hd : decodeOp s.fetchedWord = some .exitProgram := by rw [hw]; rfl
  have hpc : s.pc + 2 - 2 = s.pc := add_sub_cancel_right s.pc 2
  rw [instructionStep_decoded hp hd, hw]
  show Host.Outcome.next { s with pc := s.pc + 2 - 2, ended := true, opcode := 0x00FD, raised := none } = _
  rw [hpc]

end instructionStep

/-- Settles O19: the state is the one the fetch leaves. -/
theorem stepRunsDecodedInstruction : Obligations.StepRunsDecodedInstruction := by
  intro s i hrun hp hd
  rw [← fetchedWord_eq] at hd ⊢
  refine ⟨s.afterFetch s.fetchedWord, ?_, rfl, rfl, rfl, afterFetch_rest s _⟩
  rw [step_running hrun, instructionStep_decoded hp (decodeWord_ok hd)]

/-- Settles O20: the violation is raised before any fetch write. -/
theorem fetchOutOfRangeFaults : Obligations.FetchOutOfRangeFaults := by
  intro s hrun hp
  exact ⟨_, (step_running hrun).trans (instructionStep_of_pc_gt hp), violated_raise s .fetchOutOfRange⟩

/-- Settles O22: the step of a running core is an instruction step. -/
theorem runningCoreAlwaysSteps : Obligations.RunningCoreAlwaysSteps := by
  intro s hrun
  obtain ⟨t, ht⟩ := instructionStep_next s
  obtain ⟨hinitialized, hconfig⟩ := instructionStep_config ht
  exact ⟨t, (step_running hrun).trans ht, hinitialized.trans hrun.1, hconfig⟩

/-! ### The cycle loop (40_cycle.md R404, R405) -/

section cycleLoop
variable {s t : State}

@[simp] theorem cycleLoop_zero (s : State) : cycleLoop 0 s = (.ok, s) := rfl

theorem cycleLoop_succ_of_no_fault (h : instructionStep s = .next t) (hr : t.raised = none) (n : Nat) :
    cycleLoop (n + 1) s = cycleLoop n t := by
  rw [cycleLoop, h]; simp only [hr]

theorem cycleLoop_succ_of_fault (h : instructionStep s = .next t) {record : FaultRecord} (hr : t.raised = some record)
    (n : Nat) : cycleLoop (n + 1) s = (record.response, t) := by
  rw [cycleLoop, h]; simp only [hr]

/-- A fault ends a cycle call with a response of its own (60_exceptions.md R1302, R1304). -/
theorem response_ne_ok (record : FaultRecord) : record.response ≠ .ok := by
  cases record <;> exact Response.noConfusion

/-- Where the first `m` steps raise a fault, no later step is run. -/
theorem cycleLoop_add (m n : Nat) (s : State) : cycleLoop (m + n) s =
    if (cycleLoop m s).1 = .ok then cycleLoop n (cycleLoop m s).2 else cycleLoop m s := by
  induction m generalizing s with
  | zero => rw [Nat.zero_add, cycleLoop_zero, if_pos rfl]
  | succ m ih =>
    obtain ⟨t, ht⟩ := instructionStep_next s
    rw [Nat.succ_add]
    cases hr : t.raised with
    | none => rw [cycleLoop_succ_of_no_fault ht hr, cycleLoop_succ_of_no_fault ht hr, ih]
    | some record =>
      rw [cycleLoop_succ_of_fault ht hr, cycleLoop_succ_of_fault ht hr, if_neg (response_ne_ok record)]

/-- A state that steps to itself without a fault is where any number of steps ends. -/
theorem cycleLoop_fixed (h : instructionStep t = .next t) (hr : t.raised = none) (n : Nat) : cycleLoop n t = (.ok, t) := by
  induction n with
  | zero => rfl
  | succ n ih => rw [cycleLoop_succ_of_no_fault h hr, ih]

/-- A first step into such a state. -/
theorem cycleLoop_of_step_to_fixed (hs : instructionStep s = .next t) (h : instructionStep t = .next t)
    (hr : t.raised = none) {n : Nat} (hn : 1 ≤ n) : cycleLoop n s = (.ok, t) := by
  obtain ⟨k, rfl⟩ := Nat.exists_eq_add_of_le' hn
  rw [cycleLoop_succ_of_no_fault hs hr, cycleLoop_fixed h hr]

end cycleLoop

/-- Settles O23: the loop starts from the state with its mark and its record cleared, and `cycleLoop_add` says the rest. -/
theorem cycleStopsAtFirstFault : Obligations.CycleStopsAtFirstFault := by
  refine ⟨fun s hrun => issue_running hrun .cycle, cycleLoop_zero, fun s t _ hs => ?_, cycleLoop_add⟩
  obtain ⟨-, ht⟩ := step_next hs
  cases hr : t.raised with
  | none => exact cycleLoop_succ_of_no_fault ht hr 0
  | some record => exact cycleLoop_succ_of_fault ht hr 0

/-- Settles O24: 00FD leaves PC and memory, so the state after one step fetches 00FD again and steps to itself. -/
theorem exitSpins : Obligations.ExitSpins := by
  intro s n _ hp hw hn
  exact cycleLoop_of_step_to_fixed (instructionStep_exit hp hw)
    (instructionStep_exit (s := { s with ended := true, opcode := 0x00FD, raised := none }) hp hw) rfl hn

end Sys2Proof.Machine
end

section
/-! Proofs of the family 41_group0_system.md (O31 to O35): the words of group 0, CLS and the scrolls pixel by pixel, RET, and
the instructions that switch the resolution or end the program. -/

namespace Sys2Proof.Machine

open Sys2Proof

/-! ### The words of group 0 (30_encoding.md R303, R304) -/

theorem decodeWord_encode {i : Instr} (h : i.wellFormed = true) : decodeWord (encode i) = .ok i :=
  decodeWord_of_decodeOp (decodeOp_encode i h)

/-- The word of SCD is `wordXYN 0 0 0xC n`. -/
theorem decodeWord_scd (n : Fin 16) : decodeWord (BitVec.ofNat 16 (0x00C0 + n.val)) = .ok (.scd n) := by
  have hw : BitVec.ofNat 16 (0x00C0 + n.val) = encode (.scd n) := wordXYN_eq 0 (by decide) 0 0xC n
  rw [hw, decodeWord_encode rfl]

/-- The `nnn` that SYS gives up, as numbers. -/
theorem sysTaken_iff_toNat (nnn : Addr12) :
    sysTaken nnn = true ↔ nnn.toNat ∈ [0x0E0, 0x0FB, 0x0FC, 0x0EE, 0x0FD, 0x0FE, 0x0FF] ∨
      (0x0C0 ≤ nnn.toNat ∧ nnn.toNat ≤ 0x0CF) := by
  have := nnn.isLt
  simp only [sysTaken, Bool.or_eq_true, beq_iff_eq, ← BitVec.toNat_inj, BitVec.extractLsb'_toNat,
    Nat.shiftRight_eq_div_pow, List.mem_cons, List.not_mem_nil, BitVec.reduceToNat, or_false]
  omega

theorem decodeWord_sys {nnn : Addr12} (h : ¬sysTaken nnn = true) : decodeWord (wordNnn 0x0 nnn) = .ok (.sys nnn) := by
  have hw : wordNnn 0x0 nnn = encode (.sys nnn) := wordNnn_eq 0 (by decide) nnn
  rw [hw, decodeWord_encode (by simpa [Instr.wellFormed] using h)]

/-! ### The screen (R500 to R503) -/

theorem Screen.byte_clear (k : Nat) : Screen.clear.byte k = 0 := by
  have hrow : Screen.clear[k / 16]?.getD 0 = 0 := by
    by_cases h : k / 16 < 64 <;> simp [Screen.clear, h]
  rw [Screen.byte, hrow]
  exact BitVec.extractLsb'_zero

/-- Settles O31: CLS writes the clear screen, and that is what writing a screen leaves. -/
theorem clsClearsEveryByte : Obligations.ClsClearsEveryByte :=
  ⟨decodeWord_encode (i := .cls) rfl, fun s => ⟨s.writeScreen Screen.clear, rfl, fun k _ => Screen.byte_clear k,
    Screen.pix_clear, rfl, sameButScreen_writeScreen s _⟩⟩

/-- Settles O32: the distance is `n` scroll units, and `Screen.pix_scrollDown` says where the rows go. -/
theorem scdMovesRowsDown : Obligations.ScdMovesRowsDown := by
  intro n s
  rw [← scrollScale_eq s]
  exact ⟨decodeWord_scd n, _, rfl, fun r c hr _ => Screen.pix_scrollDown s.screen _ hr c, rfl,
    sameButScreen_writeScreen s _⟩

/-- Settles O33: the distance is four scroll units, and `Screen.pix_scrollRight` and `Screen.pix_scrollLeft` say where the
columns go. -/
theorem scrAndSclMoveColumns : Obligations.ScrAndSclMoveColumns := by
  refine ⟨decodeWord_encode (i := .scr) rfl, decodeWord_encode (i := .scl) rfl, fun s => ?_⟩
  rw [← scrollScale_eq s]
  constructor
  · exact ⟨_, rfl, fun r c hr hc => Screen.pix_scrollRight s.screen _ hr hc, rfl, sameButScreen_writeScreen s _⟩
  · exact ⟨_, rfl, fun r c hr _ => Screen.pix_scrollLeft s.screen _ hr c, rfl, sameButScreen_writeScreen s _⟩

/-! ### RET (R504) -/

theorem exec_ret_of_sp_pos {s : State} (h : 0 < s.sp.val) : exec .ret s = .next (s.pop.jumpTo s.top) := by
  have hsp : s.sp ≠ 0 := fun e => by simp [e] at h
  rw [exec, execRet, if_neg hsp, checked_none]

theorem exec_ret_of_sp_zero {s : State} (h : s.sp.val = 0) : exec .ret s = .next (raise .stackUnderflow s) := by
  have hsp : s.sp = 0 := Fin.ext h
  rw [exec, execRet, if_pos hsp, checked_some]

/-- Settles O34: RET passes its check exactly where SP is not 0. -/
theorem retPopsReturnAddress : Obligations.RetPopsReturnAddress := by
  refine ⟨decodeWord_encode (i := .ret) rfl, fun s => ⟨fun h => ?_, fun h => ?_⟩⟩
  · exact ⟨_, exec_ret_of_sp_pos h, rfl, pop_sp_val s h, rfl, sameBytes_of_memory rfl rfl⟩
  · exact ⟨_, exec_ret_of_sp_zero h, violated_raise s _⟩

/-! ### LOW and HIGH (R506, R507) -/

/-- The core in the resolution `b`: unchanged where it is there already. -/
def State.switchHiRes (s : State) (b : Bool) : State := if s.hiRes = b then s else s.setHiRes b

section switchHiRes
variable (s : State) (b : Bool)

theorem exec_low : exec .low s = .next (s.switchHiRes false) := by
  rw [exec, execLow, State.switchHiRes]
  cases s.hiRes <;> rfl

theorem exec_high : exec .high s = .next (s.switchHiRes true) := rfl

theorem switchHiRes_cases : (s.hiRes = b ∧ s.switchHiRes b = s) ∨ (s.hiRes = !b ∧ s.switchHiRes b = s.setHiRes b) := by
  by_cases h : s.hiRes = b
  · exact .inl ⟨h, if_pos h⟩
  · exact .inr ⟨Bool.eq_not.2 h, if_neg h⟩

@[simp] theorem switchHiRes_hiRes : (s.switchHiRes b).hiRes = b := by
  rcases switchHiRes_cases s b with ⟨h, e⟩ | ⟨-, e⟩ <;> rw [e]
  · exact h
  · rfl

/-- The mark is set where the resolution changes. -/
theorem switchHiRes_screenUpdated : (s.switchHiRes b).screenUpdated = (s.screenUpdated || (s.hiRes != b)) := by
  rcases switchHiRes_cases s b with ⟨h, e⟩ | ⟨h, e⟩ <;> rw [e, h] <;> simp

theorem switchHiRes_rest : { s.switchHiRes b with hiRes := s.hiRes, screenUpdated := s.screenUpdated } = s := by
  rcases switchHiRes_cases s b with ⟨-, e⟩ | ⟨-, e⟩ <;> rw [e]
  exact setHiRes_rest s b

theorem sameBytes_switchHiRes : s.sameBytes (s.switchHiRes b) := by
  rcases switchHiRes_cases s b with ⟨-, e⟩ | ⟨-, e⟩ <;> rw [e] <;> exact sameBytes_of_memory rfl rfl

end switchHiRes

/-- Settles O35: SYS has the rest of the words of group 0, and LOW and HIGH are `State.switchHiRes`. -/
theorem systemInstructions : Obligations.SystemInstructions := by
  refine ⟨decodeWord_encode (i := .exitProgram) rfl, decodeWord_encode (i := .low) rfl,
    decodeWord_encode (i := .high) rfl, fun nnn hwords hscd => ?_, fun s => ⟨fun _ => rfl, ?_, ?_, ?_⟩⟩
  · exact decodeWord_sys (by simp [sysTaken_iff_toNat, hwords, hscd])
  · exact ⟨s.rewind.setEnded, rfl, rfl, rfl, rfl, sameBytes_of_memory rfl rfl⟩
  · exact ⟨_, exec_low s, switchHiRes_hiRes s _, by simp [switchHiRes_screenUpdated], switchHiRes_rest s _,
      sameBytes_switchHiRes s _⟩
  · exact ⟨_, exec_high s, switchHiRes_hiRes s _, by simp [switchHiRes_screenUpdated], switchHiRes_rest s _,
      sameBytes_switchHiRes s _⟩

end Sys2Proof.Machine
end

section
/-! Proofs of the family 42_control_flow.md (O36, O37, O39): the jumps, CALL on a stack with room and on a full one, and the
four skips. -/

namespace Sys2Proof.Machine

open Sys2Proof

/-- A word written as a number decodes once it is the encoder's word (30_encoding.md R301, R303). -/
theorem decodeWord_of_eq_encode {op : Word} {i : Instr} (hop : op = encode i) (hwf : i.wellFormed = true) :
    decodeWord op = .ok i := by
  rw [hop, decodeWord_encode hwf]

/-! ### JP and JP V0 (R600, R606) -/

theorem jumpBase_chip8 {s : State} (h : s.platform = .chip8) (nnn : Addr12) : s.jumpBase nnn = s.v[0] := by
  rw [State.jumpBase, h]; rfl

theorem jumpBase_schip {s : State} (h : s.platform ≠ .chip8) (nnn : Addr12) : s.jumpBase nnn = s.v[addrX nnn] := by
  rw [State.jumpBase]
  cases hp : s.platform with
  | chip8 => exact absurd hp h
  | schip10 | schip11 => rfl

/-- The target of JP V0 fits in a word: the sum of a byte and twelve bits is at most 0x10FE. -/
theorem byteWord_add_addrWord_toNat (b : Byte) (nnn : Addr12) :
    (byteWord b + addrWord nnn).toNat = b.toNat + nnn.toNat := by
  have := b.isLt
  have := nnn.isLt
  rw [BitVec.toNat_add, byteWord_toNat, addrWord_toNat]; omega

/-- Settles O36: both jumps are `State.jumpTo`, and the platform chooses the base register of the second. -/
theorem jumpTargets : Obligations.JumpTargets := by
  refine fun nnn s => ⟨decodeWord_of_eq_encode (wordNnn_eq 1 (by decide) nnn) rfl,
    decodeWord_of_eq_encode (wordNnn_eq 0xB (by decide) nnn) rfl, ?_, ?_⟩
  · exact ⟨_, rfl, addrWord_toNat nnn, sameButPc_jumpTo s _⟩
  · refine ⟨_, rfl, fun hp => ?_, fun hp x hx => ?_, sameButPc_jumpTo s _⟩
    · rw [jumpTo_pc, byteWord_add_addrWord_toNat, jumpBase_chip8 hp]
    · have hxv : x = addrX nnn := Fin.ext (hx.trans (addrX_val nnn).symm)
      rw [jumpTo_pc, byteWord_add_addrWord_toNat, jumpBase_schip hp, hxv]

/-! ### CALL (R601; 10_state.md R109) -/

theorem exec_call_of_sp_lt {s : State} (h : s.sp.val < 15) (nnn : Addr12) :
    exec (.call nnn) s = .next ((s.push s.pc).jumpTo (addrWord nnn)) := by
  have hsp : s.sp ≠ 15 := fun e => by simp [e] at h
  rw [exec, execCall, if_neg hsp, checked_none]

theorem exec_call_of_sp_full {s : State} (h : s.sp.val = 15) (nnn : Addr12) :
    exec (.call nnn) s = .next (raise .stackOverflow s) := by
  have hsp : s.sp = 15 := Fin.ext h
  rw [exec, execCall, if_pos hsp, checked_some]

/-- A push writes the new top slot alone. -/
theorem push_getElem_ne (s : State) (w : Word) {k : Fin 16} (h : k ≠ (s.push w).sp) :
    (s.push w).stack[k] = s.stack[k] :=
  (push_getElem s w k.isLt).trans (if_neg fun e => h (Fin.ext e.symm))

/-- Settles O37: CALL passes its check exactly where SP is not 15. -/
theorem callPushesReturnAddress : Obligations.CallPushesReturnAddress := by
  refine fun nnn s => ⟨decodeWord_of_eq_encode (wordNnn_eq 2 (by decide) nnn) rfl, fun h => ?_, fun h => ?_⟩
  · exact ⟨_, exec_call_of_sp_lt h nnn, push_sp_val s s.pc h, push_top s s.pc, fun k => push_getElem_ne s s.pc,
      addrWord_toNat nnn, rfl, sameBytes_of_memory rfl rfl⟩
  · exact ⟨_, exec_call_of_sp_full h nnn, violated_raise s _⟩

/-! ### The skips (R602 to R605) -/

section skips
variable {s : State} {i : Instr} {b c : Byte}

theorem exec_skip_of_eq (h : exec i s = .next (s.skipIf (b == c))) :
    ∃ t, exec i s = .next t ∧ t.pc = (if b = c then s.pc + 2 else s.pc) ∧ s.sameButPc t :=
  ⟨_, h, by simp, sameButPc_skipIf s _⟩

theorem exec_skip_of_ne (h : exec i s = .next (s.skipIf (b != c))) :
    ∃ t, exec i s = .next t ∧ t.pc = (if b = c then s.pc else s.pc + 2) ∧ s.sameButPc t :=
  ⟨_, h, by simp, sameButPc_skipIf s _⟩

end skips

/-- Settles O39: each meaning is `State.skipIf` of its comparison. -/
theorem skipsFollowComparison : Obligations.SkipsFollowComparison := fun x y kk s =>
  ⟨decodeWord_of_eq_encode (wordXKk_eq 3 (by decide) x kk) rfl, decodeWord_of_eq_encode (wordXKk_eq 4 (by decide) x kk) rfl,
    decodeWord_of_eq_encode (wordXYN_eq 5 (by decide) x y 0) rfl,
    decodeWord_of_eq_encode (wordXYN_eq 9 (by decide) x y 0) rfl,
    exec_skip_of_eq rfl, exec_skip_of_ne rfl, exec_skip_of_eq rfl, exec_skip_of_ne rfl⟩

end Sys2Proof.Machine
end

section
/-! Proofs of the family 43_alu.md (O40 to O43): the results and flags of the arithmetic as numbers, what a flag-setting
meaning and a plain register write leave, and the eleven forms. -/

namespace Sys2Proof.Machine

open Sys2Proof

/-- The words `8xyn` of R304, written as numbers. -/
theorem decodeWord_group8 (x y n : Fin 16) {i : Instr} (hi : packXYN 0x8 x y n = encode i) (hwf : i.wellFormed = true) :
    decodeWord (wordXYN 0x8 x y n) = .ok i :=
  decodeWord_of_eq_encode ((wordXYN_eq 8 (by decide) x y n).trans hi) hwf

/-! ### Results as numbers (43_alu.md R700) -/

/-- A difference wraps modulo 256, as R709 writes it. -/
theorem byte_sub_toNat (a b : Byte) : (a - b).toNat = (a.toNat + 256 - b.toNat) % 256 := by
  have := b.isLt
  rw [BitVec.toNat_sub]; omega

theorem byte_shiftRight_one_toNat (a : Byte) : (a >>> 1).toNat = a.toNat / 2 := by
  rw [BitVec.toNat_ushiftRight, Nat.shiftRight_eq_div_pow, pow_one]

theorem byte_shiftLeft_one_toNat (a : Byte) : (a <<< 1).toNat = 2 * a.toNat % 256 := by
  rw [BitVec.toNat_shiftLeft, Nat.shiftLeft_eq, pow_one, Nat.mul_comm]

theorem shiftSource_toNat (s : State) (x y : VReg) :
    (s.shiftSource x y).toNat = if s.platform = .chip8 then s.v[y].toNat else s.v[x].toNat := by
  rw [shiftSource_eq, apply_ite BitVec.toNat]

/-! ### Flags as VF holds them (43_alu.md R708 to R712) -/

theorem flagByte_decide (p : Prop) [Decidable p] : flagByte (decide p) = if p then 1 else 0 := by
  simp only [flagByte, decide_eq_true_eq]

theorem flagByte_carryOut (a b : Byte) : flagByte (carryOut a b) = if 255 < a.toNat + b.toNat then 1 else 0 :=
  flagByte_decide _

theorem flagByte_noBorrow (a b : Byte) : flagByte (noBorrow a b) = if b.toNat < a.toNat then 1 else 0 :=
  flagByte_decide _

theorem shiftedOutRight_toNat (src : Byte) : (shiftedOutRight src).toNat = src.toNat % 2 := by
  rw [shiftedOutRight, BitVec.getLsbD, Nat.toNat_testBit, pow_zero, Nat.div_one]

theorem shiftedOutLeft_toNat (src : Byte) : (shiftedOutLeft src).toNat = src.toNat / 128 := by
  have := src.isLt
  rw [shiftedOutLeft, BitVec.getLsbD, Nat.toNat_testBit]; omega

/-! ### What a flag-setting meaning leaves (43_alu.md R701) -/

section flagged
variable {s : State} {i : Instr} {x : VReg} {result : Byte} {f : Bool} {n m : Nat}

theorem exec_flagged {flag : Byte} (h : exec i s = .next (s.writeFlagged x result f)) (hf : flagByte f = flag)
    (hn : result.toNat = n) :
    ∃ t, exec i s = .next t ∧ t.v[15] = flag ∧ (x ≠ 15 → t.v[x].toNat = n) ∧ s.sameButV t [x, 15] :=
  ⟨_, h, (writeFlagged_getElem_F s x result f).trans hf,
    fun hx => (congrArg BitVec.toNat (writeFlagged_getElem_self s x result f hx)).trans hn,
    sameButV_writeFlagged s x result f⟩

/-- The same with the flag as a number. -/
theorem exec_flagged_toNat (h : exec i s = .next (s.writeFlagged x result f)) (hm : f.toNat = m) (hn : result.toNat = n) :
    ∃ t, exec i s = .next t ∧ t.v[15].toNat = m ∧ (x ≠ 15 → t.v[x].toNat = n) ∧ s.sameButV t [x, 15] := by
  obtain ⟨t, ht, hflag, hresult, hframe⟩ := exec_flagged h rfl hn
  exact ⟨t, ht, by rw [hflag, flagByte_toNat, hm], hresult, hframe⟩

end flagged

/-- Settles O41: the carry is the last write, whatever x is. -/
theorem addSetsCarry : Obligations.AddSetsCarry := fun x y s =>
  ⟨decodeWord_group8 x y 4 rfl rfl, exec_flagged rfl (flagByte_carryOut s.v[x] s.v[y]) (BitVec.toNat_add _ _)⟩

/-- Settles O42: SUB and SUBN are the same difference, the operands exchanged. -/
theorem subtractionsSetNoBorrow : Obligations.SubtractionsSetNoBorrow := fun x y s =>
  ⟨decodeWord_group8 x y 5 rfl rfl, decodeWord_group8 x y 7 rfl rfl,
    exec_flagged rfl (flagByte_noBorrow s.v[x] s.v[y]) (byte_sub_toNat _ _),
    exec_flagged rfl (flagByte_noBorrow s.v[y] s.v[x]) (byte_sub_toNat _ _)⟩

/-- Settles O43: both shifts read the platform's source, and the flag is its bit 0 or its bit 7. -/
theorem shiftsBySourceOfPlatform : Obligations.ShiftsBySourceOfPlatform := by
  intro x y s src
  have hsrc : (s.shiftSource x y).toNat = src := shiftSource_toNat s x y
  refine ⟨decodeWord_group8 x y 6 rfl rfl, decodeWord_group8 x y 0xE rfl rfl, ?_, ?_⟩
  · exact exec_flagged_toNat rfl (by rw [shiftedOutRight_toNat, hsrc]) (by rw [byte_shiftRight_one_toNat, hsrc])
  · exact exec_flagged_toNat rfl (by rw [shiftedOutLeft_toNat, hsrc]) (by rw [byte_shiftLeft_one_toNat, hsrc])

/-! ### The forms without a flag (43_alu.md R702 to R707) -/

theorem exec_writeV {s : State} {i : Instr} {x : VReg} {b : Byte} (h : exec i s = .next (s.writeV x b)) :
    ∃ t, exec i s = .next t ∧ t.v[x] = b ∧ s.sameButV t [x] :=
  ⟨_, h, writeV_getElem_self s x b, sameButV_writeV s x b⟩

/-- A bitwise form, read bit by bit. -/
theorem exec_writeV_bits {s : State} {i : Instr} {x : VReg} {b : Byte} {bit : Nat → Bool}
    (h : exec i s = .next (s.writeV x b)) (hb : ∀ k, b.getLsbD k = bit k) :
    ∃ t, exec i s = .next t ∧ (∀ k, k < 8 → t.v[x].getLsbD k = bit k) ∧ s.sameButV t [x] := by
  obtain ⟨t, ht, hv, hframe⟩ := exec_writeV h
  exact ⟨t, ht, fun k _ => by rw [hv, hb], hframe⟩

/-- Settles O40: each form is one write of V[x], and VF is touched only as V[x]. -/
theorem plainRegisterForms : Obligations.PlainRegisterForms := by
  refine fun x y kk s =>
    ⟨⟨decodeWord_of_eq_encode (wordXKk_eq 6 (by decide) x kk) rfl, decodeWord_of_eq_encode (wordXKk_eq 7 (by decide) x kk) rfl,
      decodeWord_group8 x y 0 rfl rfl, decodeWord_group8 x y 1 rfl rfl, decodeWord_group8 x y 2 rfl rfl,
      decodeWord_group8 x y 3 rfl rfl⟩,
    exec_writeV rfl, ?_, exec_writeV rfl, exec_writeV_bits rfl fun _ => BitVec.getLsbD_or,
    exec_writeV_bits rfl fun _ => BitVec.getLsbD_and, exec_writeV_bits rfl fun _ => BitVec.getLsbD_xor⟩
  obtain ⟨t, ht, hv, hframe⟩ := exec_writeV (i := .addImm x kk) (s := s) rfl
  exact ⟨t, ht, (congrArg BitVec.toNat hv).trans (BitVec.toNat_add _ _), hframe⟩

end Sys2Proof.Machine
end

section
/-! Proofs of the family 44_index_memory.md (O44 to O49): the four writes of I, the two stores and the load at I with their
checks, and the hp48 registers. -/

namespace Sys2Proof.Machine

open Sys2Proof

/-- The words `Fxkk` of R304, written as numbers. -/
theorem decodeWord_groupF (x : VReg) (kk : Byte) {i : Instr} (hi : packXKk 0xF x kk = encode i) (hwf : i.wellFormed = true) :
    decodeWord (wordXKk 0xF x kk) = .ok i :=
  decodeWord_of_eq_encode ((wordXKk_eq 0xF (by decide) x kk).trans hi) hwf

/-! ### The writes of I (R800 to R803) -/

theorem exec_setI {s : State} {i : Instr} {w : Word} {n : Nat} (h : exec i s = .next (s.setI w)) (hn : w.toNat = n) :
    ∃ t, exec i s = .next t ∧ t.i.toNat = n ∧ s.sameButI t :=
  ⟨_, h, hn, sameButI_setI s w⟩

/-- The address of a glyph, where the last one a byte can name still fits in a word. -/
theorem glyphAddress_toNat {base size : Nat} (h : base + size * 255 < 65536) (b : Byte) :
    (BitVec.ofNat 16 (base + size * b.toNat)).toNat = base + size * b.toNat := by
  have hb : size * b.toNat ≤ size * 255 := Nat.mul_le_mul_left size (Nat.le_of_lt_succ b.isLt)
  rw [BitVec.toNat_ofNat, Nat.mod_eq_of_lt (by omega)]

/-- Settles O44: each meaning is one `State.setI`, and the glyph addresses stay below 2^16. -/
theorem indexRegisterLoads : Obligations.IndexRegisterLoads := fun x nnn s =>
  ⟨⟨decodeWord_of_eq_encode (wordNnn_eq 0xA (by decide) nnn) rfl, decodeWord_groupF x 0x1E rfl rfl,
      decodeWord_groupF x 0x29 rfl rfl, decodeWord_groupF x 0x30 rfl rfl⟩,
    exec_setI rfl (addrWord_toNat nnn), exec_setI rfl (advanceI_toNat s _),
    exec_setI rfl (glyphAddress_toNat (by decide) _), exec_setI rfl (glyphAddress_toNat (by decide) _)⟩

/-! ### Checked meanings (20_memory.md R205 to R208; R810) -/

section checks
variable {s e : State} {i : Instr} {violation : Option Violation} {a n : Nat}

theorem exec_of_check_none (h : exec i s = checked violation s e) (hv : violation = none) : exec i s = .next e := by
  rw [h, hv, checked_none]

theorem exec_violated {kind : Violation} (h : exec i s = checked violation s e) (hv : violation = some kind) :
    ∃ t, exec i s = .next t ∧ s.violated t kind :=
  ⟨raise kind s, by rw [h, hv, checked_some], violated_raise s kind⟩

theorem readCheck_eq_none_of_le (h : a + n ≤ 4096) : readCheck a n = none := readCheck_eq_none.2 fun k hk => by omega

/-- A set of writes inside memory passes where it meets no protected font byte. -/
theorem writeCheck_eq_none_of_le {p : Params} (h : a + n ≤ 4096)
    (hfont : ¬(p.fontWriteFaults = true ∧ ∃ k < n, 0x50 ≤ a + k ∧ a + k < 0x140)) : writeCheck p a n = none :=
  writeCheck_eq_none.2 ⟨fun k hk => by omega, fun hf k hk hin => hfont ⟨hf, k, hk, hin⟩⟩

/-- A set of writes inside memory faults where it meets a protected font byte. -/
theorem writeCheck_eq_font_of_le {p : Params} (h : a + n ≤ 4096)
    (hfont : p.fontWriteFaults = true ∧ ∃ k < n, 0x50 ≤ a + k ∧ a + k < 0x140) : writeCheck p a n = some .fontWrite :=
  writeCheck_eq_font (fun k hk => by omega) hfont.1 hfont.2

/-- A set of writes that passes its check passes the check of the same reads. -/
theorem readCheck_eq_none_of_writeCheck {p : Params} (h : writeCheck p a n = none) : readCheck a n = none :=
  readCheck_eq_none.2 (writeCheck_eq_none.1 h).1

end checks

theorem sameBytesOutside_writeBytes (s : State) (a : Nat) (bs : List Byte) :
    s.sameBytesOutside (s.writeBytes a bs) a bs.length :=
  fun k => readByte_writeBytes_outside s a k bs

/-! ### LD B, Vx (R804) -/

theorem readByte_writeBytes_bcdDigits_toNat (s : State) (a : Nat) (b : Byte) {k : Nat} (hk : k < 3) :
    ((s.writeBytes a (bcdDigits b)).readByte (a + k)).toNat = [b.toNat / 100, b.toNat / 10 % 10, b.toNat % 10][k] := by
  have hlen : k < (bcdDigits b).length := hk
  rw [readByte_writeBytes_inside s a _ k hlen, ← List.getElem_map BitVec.toNat (h := by simpa using hlen)]
  exact List.getElem_of_eq (bcdDigits_toNat b) _

/-- Settles O45: the three clauses are the three answers of `writeCheck` on three bytes. -/
theorem bcdStoresDecimalDigits : Obligations.BcdStoresDecimalDigits := by
  intro x s a font
  refine ⟨decodeWord_groupF x 0x33 rfl rfl, fun ha hfont => ?_, fun ha => ?_, fun ha hfont => ?_⟩
  · have digit {k : Nat} (hk : k < 3) := readByte_writeBytes_bcdDigits_toNat s a s.v[x] hk
    exact ⟨_, exec_of_check_none rfl (writeCheck_eq_none_of_le (n := 3) ha hfont), digit (k := 0) (by decide),
      digit (k := 1) (by decide), digit (k := 2) (by decide), sameBytesOutside_writeBytes s a (bcdDigits s.v[x]), rfl⟩
  · exact exec_violated rfl (writeCheck_eq_mem (n := 3) (by decide) (Nat.lt_succ_of_le ha))
  · exact exec_violated rfl (writeCheck_eq_font_of_le (n := 3) ha hfont)

/-! ### LD [I], Vx and LD Vx, [I] (R805 to R807) -/

section transfer
variable (s : State) {x k : VReg}

@[simp] theorem readByte_advanceI (n a : Nat) : (s.advanceI n).readByte a = s.readByte a := readByte_congr rfl rfl a

theorem readByte_writeBytes_regsUpTo (a : Nat) (h : k ≤ x) :
    (s.writeBytes a (s.regsUpTo x)).readByte (a + k.val) = s.v[k] := by
  rw [readByte_writeBytes, if_pos (Nat.le_add_right a k.val), Nat.add_sub_cancel_left, regsUpTo_getElem? s h,
    Option.getD_some]

theorem sameBytesOutside_writeBytes_regsUpTo (a : Nat) (x : VReg) :
    s.sameBytesOutside (s.writeBytes a (s.regsUpTo x)) a (x.val + 1) := by
  simpa using sameBytesOutside_writeBytes s a (s.regsUpTo x)

theorem loadV_getElem_of_le (bytes : VReg → Byte) (h : k ≤ x) : (s.loadV x bytes).v[k] = bytes k :=
  (loadV_getElem s x k bytes).trans (if_pos h)

theorem loadV_getElem_of_lt (bytes : VReg → Byte) (h : x < k) : (s.loadV x bytes).v[k] = s.v[k] :=
  (loadV_getElem s x k bytes).trans (if_neg (not_le.2 h))

/-- A load that passes its check: V0 to Vx are the bytes at I, I is raised, and nothing else changes. -/
theorem exec_loadRegs (h : readCheck s.i.toNat (x.val + 1) = none) : ∃ t, exec (.loadRegs x) s = .next t ∧
    (∀ k : VReg, k ≤ x → t.v[k] = s.readByte (s.i.toNat + k.val)) ∧ (∀ k : VReg, x < k → t.v[k] = s.v[k]) ∧
    t.i.toNat = (s.i.toNat + s.incI x) % 65536 ∧ { t with v := s.v, i := s.i } = s ∧ s.sameBytes t := by
  refine ⟨_, exec_of_check_none rfl h, fun k hk => ?_, fun k hk => ?_, ?_, by simp, sameBytes_of_memory (by simp) (by simp)⟩
  · rw [advanceI_v, loadV_getElem_of_le s _ hk]
  · rw [advanceI_v, loadV_getElem_of_lt s _ hk]
  · rw [advanceI_toNat, loadV_i]

end transfer

/-- Settles O46: the bytes are those of `State.regsUpTo`, and raising I moves no byte. -/
theorem storeRegistersToMemory : Obligations.StoreRegistersToMemory := by
  intro x s a inc font
  have hinc : s.incI x = inc := incI_eq s x
  have hfontIff : font ↔ s.params.fontWriteFaults = true ∧ ∃ k < x.val + 1, 0x50 ≤ a + k ∧ a + k < 0x140 := by
    simp only [font, Nat.lt_succ_iff]
  rw [hfontIff, ← hinc]
  refine ⟨decodeWord_groupF x 0x55 rfl rfl, fun ha hfont => ?_, fun ha => ?_, fun ha hfont => ?_⟩
  · exact ⟨_, exec_of_check_none rfl (writeCheck_eq_none_of_le (n := x.val + 1) ha hfont),
      fun k hk => by rw [readByte_advanceI, readByte_writeBytes_regsUpTo s a hk],
      fun k hk => by rw [readByte_advanceI, sameBytesOutside_writeBytes_regsUpTo s a x k hk],
      advanceI_toNat _ _, rfl⟩
  · exact exec_violated rfl (writeCheck_eq_mem (Nat.succ_ne_zero x.val) (Nat.lt_succ_of_le ha))
  · exact exec_violated rfl (writeCheck_eq_font_of_le (n := x.val + 1) ha hfont)

/-- Settles O47: the two clauses are the two answers of `readCheck`, and `exec_loadRegs` says what the load leaves. -/
theorem loadRegistersFromMemory : Obligations.LoadRegistersFromMemory := by
  intro x s a inc
  have hinc : s.incI x = inc := incI_eq s x
  rw [← hinc]
  refine ⟨decodeWord_groupF x 0x65 rfl rfl, fun ha => ?_, fun ha => ?_⟩
  · exact exec_loadRegs s (readCheck_eq_none_of_le (n := x.val + 1) ha)
  · exact exec_violated rfl (readCheck_eq_some (Nat.succ_ne_zero x.val) (Nat.lt_succ_of_le ha))

/-- A store that left the core running passed its check and had its effect. -/
theorem exec_storeRegs_of_not_faulted {x : VReg} {s t : State} (h : exec (.storeRegs x) s = .next t)
    (hf : t.faulted = false) : writeCheck s.params s.i.toNat (x.val + 1) = none ∧
      t = (s.writeBytes s.i.toNat (s.regsUpTo x)).advanceI (s.incI x) := by
  rcases checked_cases h with ⟨kind, -, ht⟩ | ⟨hcheck, ht⟩ <;> cases ht
  · cases hf
  · exact ⟨hcheck, rfl⟩

/-- Settles O48: the load reads the addresses the store wrote, and their check passed with the store's. -/
theorem loadRestoresStoredRegisters : Obligations.LoadRestoresStoredRegisters := by
  intro x s t u hstore hf hm hp hi
  obtain ⟨hcheck, rfl⟩ := exec_storeRegs_of_not_faulted hstore hf
  have hread : readCheck u.i.toNat (x.val + 1) = none := by rw [hi]; exact readCheck_eq_none_of_writeCheck hcheck
  obtain ⟨w, hload, hle, hlt, -, hrest, -⟩ := exec_loadRegs u hread
  refine ⟨w, hload, fun k hk => ?_, hlt, (congrArg State.faulted hrest :)⟩
  calc w.v[k] = u.readByte (u.i.toNat + k.val) := hle k hk
    _ = (s.writeBytes s.i.toNat (s.regsUpTo x)).readByte (s.i.toNat + k.val) := by rw [hi]; exact readByte_congr hm hp _
    _ = s.v[k] := readByte_writeBytes_regsUpTo s _ hk

/-! ### The hp48 registers (R808 to R810) -/

section hp48
variable {x : VReg}

theorem hp48Check_eq_none (h : x.val ≤ 7) : hp48Check x = none := if_neg (not_lt.2 h)

theorem hp48Check_eq_some (h : 7 < x.val) : hp48Check x = some .hp48Index := if_pos h

/-- The register `V[z]` and the hp48 register of the same number. -/
theorem storeHp48_getElem_of_val_eq (s : State) {k : Fin 8} {z : VReg} (h : z.val = k.val) :
    (s.storeHp48 x).hp48[k] = if z ≤ x then s.v[z] else s.hp48[k] := by
  obtain ⟨n, hn⟩ := z
  obtain rfl : n = k.val := h
  exact storeHp48_getElem s x k

theorem hp48_getD_of_val_eq (s : State) {k : Fin 8} {z : VReg} (h : z.val = k.val) (b : Byte) :
    s.hp48[z.val]?.getD b = s.hp48[k] := by
  simp [h]

end hp48

/-- Settles O49: both copies pass `hp48Check` exactly where x is at most 7. -/
theorem hp48SaveAndRestore : Obligations.Hp48SaveAndRestore := by
  refine fun x s => ⟨decodeWord_groupF x 0x75 rfl rfl, decodeWord_groupF x 0x85 rfl rfl,
    fun hx => ⟨?_, ?_⟩, fun hx => ⟨?_, ?_⟩⟩
  · exact ⟨_, exec_of_check_none rfl (hp48Check_eq_none hx), fun k z hz => storeHp48_getElem_of_val_eq s hz,
      storeHp48_rest s x, sameBytes_of_memory (by simp) (by simp)⟩
  · exact ⟨_, exec_of_check_none rfl (hp48Check_eq_none hx),
      fun k z hz hle => (loadV_getElem_of_le s _ hle).trans (hp48_getD_of_val_eq s hz _),
      fun z hz => loadV_getElem_of_lt s _ hz, loadV_rest s x _, sameBytes_of_memory (by simp) (by simp)⟩
  · exact exec_violated rfl (hp48Check_eq_some hx)
  · exact exec_violated rfl (hp48Check_eq_some hx)

end Sys2Proof.Machine
end

section
/-! Proofs of the family 45_framebuffer_draw.md (O50 to O53): the 1024 bytes are the whole screen; a draw XORs a set of
pixels and reports whether one of them was lit, from which what one draw leaves and what two equal draws leave both follow. -/

namespace Sys2Proof.Machine

open Sys2Proof

/-! ### The layout (R900 to R902) -/

/-- Two screens with the same 1024 bytes are the same data (log 8). -/
theorem Screen.ext_byte {a b : Screen} (h : ∀ k, k < 1024 → a.byte k = b.byte k) : a = b := by
  refine Screen.ext_pix fun r c hr hc => ?_
  rw [← Screen.byte_getLsbD a r hc, ← Screen.byte_getLsbD b r hc, h _ (by omega)]

/-- Settles O50: a pixel's place is `Screen.byte_getLsbD`, which also makes bytes determine pixels. -/
theorem screenLayoutAndSetPix : Obligations.ScreenLayoutAndSetPix := by
  refine ⟨fun scr r c _ hc => ?_, fun scr _ _ _ _ b hr hc hr' hc' => Screen.pix_setPix scr hr hc hr' hc' b,
    fun _ _ => Screen.ext_byte⟩
  rw [Nat.mul_comm r 16, Screen.byte_getLsbD scr r hc]

/-! ### Drawings as operations on the screen (R909, R910) -/

section drawings
variable {draw : Screen → Screen × Bool} {lit : Nat → Nat → Bool}

/-- A drawing on any screen XORs the pixels of `lit`, and its collision bit says whether one of them was lit. -/
def XorsPixels (draw : Screen → Screen × Bool) (lit : Nat → Nat → Bool) : Prop :=
  ∀ scr, (∀ r c, r < 64 → c < 128 → (draw scr).1.pix r c = (scr.pix r c != lit r c)) ∧
    ((draw scr).2 = true ↔ ∃ r c, r < 64 ∧ c < 128 ∧ lit r c = true ∧ scr.pix r c = true)

theorem xorsPixels_nothing : XorsPixels (fun scr => (scr, false)) fun _ _ => false :=
  fun scr => ⟨fun r c _ _ => (Bool.bne_false (scr.pix r c)).symm, by simp⟩

theorem xorsPixels_drawSprite {w : Nat} (hiRes : Bool) (ox oy : Nat) (sprite : List (BitVec w))
    (h : oy + sprite.length ≤ logicalRows hiRes) :
    XorsPixels (drawSprite hiRes ox oy sprite) (spriteCovers hiRes ox oy sprite) :=
  fun scr => drawSprite_spec hiRes ox oy sprite scr h

/-- Only the pixels of the grid matter. -/
theorem XorsPixels.congr {lit' : Nat → Nat → Bool} (h : XorsPixels draw lit)
    (hlit : ∀ r c, r < 64 → c < 128 → lit r c = lit' r c) : XorsPixels draw lit' := by
  intro scr
  obtain ⟨hpix, hflag⟩ := h scr
  refine ⟨fun r c hr hc => hlit r c hr hc ▸ hpix r c hr hc, hflag.trans ?_⟩
  refine exists_congr fun r => exists_congr fun c => and_congr_right fun hr => and_congr_right fun hc => ?_
  rw [hlit r c hr hc]

theorem XorsPixels.no_collision (h : XorsPixels draw lit) {scr : Screen} (hf : (draw scr).2 = false) {r c : Nat}
    (hr : r < 64) (hc : c < 128) (hl : lit r c = true) : scr.pix r c = false := by
  refine eq_false_of_ne_true fun hp => ?_
  have hcollision : (draw scr).2 = true := (h scr).2.2 ⟨r, c, hr, hc, hl, hp⟩
  rw [hf] at hcollision
  cases hcollision

/-- Each pixel is XORed with the same bit twice. -/
theorem XorsPixels.twice (h : XorsPixels draw lit) (scr : Screen) : (draw (draw scr).1).1 = scr := by
  refine Screen.ext_pix fun r c hr hc => ?_
  rw [(h _).1 r c hr hc, (h _).1 r c hr hc, Bool.bne_assoc, bne_self_eq_false, Bool.bne_false]

section blank
variable {scr : Screen} (hblank : ∀ r c, r < 64 → c < 128 → scr.pix r c = false)
include hblank

theorem XorsPixels.blank_flag (h : XorsPixels draw lit) : (draw scr).2 = false := by
  rw [← Bool.not_eq_true, (h scr).2]
  rintro ⟨r, c, hr, hc, -, hp⟩
  rw [hblank r c hr hc] at hp
  cases hp

/-- On a blank screen the first drawing lights the pixels of `lit`, and the second meets them. -/
theorem XorsPixels.blank_twice_flag (h : XorsPixels draw lit) (hne : (draw scr).1 ≠ scr) :
    (draw (draw scr).1).2 = true := by
  by_contra hf
  refine hne (Screen.ext_pix fun r c hr hc => ?_)
  have hunlit : lit r c ≠ true := fun hl => by
    have hclear := h.no_collision (eq_false_of_ne_true hf) hr hc hl
    rw [(h scr).1 r c hr hc, hblank r c hr hc, hl] at hclear
    cases hclear
  rw [(h scr).1 r c hr hc, eq_false_of_ne_true hunlit, Bool.bne_false]

end blank

/-- What an instruction that draws leaves (R910, R913): the pixels of `lit` XORed, the collision in VF, the screen marked,
and nothing else changed. -/
def State.drew (s t : State) (lit : Nat → Nat → Bool) : Prop :=
  (∀ r c, r < 64 → c < 128 → t.screen.pix r c = (s.screen.pix r c != lit r c)) ∧
  (t.v[15] = 1 ∧ (∃ r c, r < 64 ∧ c < 128 ∧ lit r c = true ∧ s.screen.pix r c = true) ∨
    t.v[15] = 0 ∧ ∀ r c, r < 64 → c < 128 → lit r c = true → s.screen.pix r c = false) ∧
  t.screenUpdated = true ∧ s.sameButDrawing t

theorem drew_finishDraw (h : XorsPixels draw lit) (s : State) : s.drew (s.finishDraw (draw s.screen)) lit := by
  refine ⟨(h s.screen).1, ?_, rfl, sameButDrawing_finishDraw s _⟩
  rw [finishDraw_getElem_F]
  cases hf : (draw s.screen).2 with
  | true => exact .inl ⟨rfl, (h s.screen).2.1 hf⟩
  | false => exact .inr ⟨rfl, fun r c hr hc => h.no_collision hf hr hc⟩

end drawings

/-! ### The sprite of a draw (R903, R910, R911) -/

/-- Bit `w - 1 - j` of a row, read as a number. -/
theorem getMsbD_eq_testBit {w : Nat} (bits : BitVec w) {j : Nat} (h : j < w) :
    bits.getMsbD j = bits.toNat.testBit (w - 1 - j) := by
  rw [BitVec.getMsbD, decide_eq_true h, Bool.true_and, BitVec.testBit_toNat]

/-- The pixels of the model's sprite are those of the statement's, whose columns need no clipping on the grid. -/
theorem spriteCovers_eq_spriteLit {w : Nat} (s : State) (ox oy rows : Nat) (row : Nat → BitVec w) (r : Nat) {c : Nat}
    (hc : c < 128) : spriteCovers s.hiRes ox oy ((List.range rows).map row) r c =
      s.spriteLit ox oy rows w (fun k => (row k).toNat) r c := by
  have hcols : c / drawScale s.hiRes < logicalCols s.hiRes := by
    cases s.hiRes <;> simp only [drawScale, logicalCols, if_true, Bool.false_eq_true, if_false] <;> omega
  have hrow (k : Nat) (bits : BitVec w) : ((List.range rows).map row)[k]? = some bits ↔ k < rows ∧ row k = bits := by
    simp [List.getElem?_eq_some_iff]
  rw [Bool.eq_iff_iff, spriteCovers, decide_eq_true_iff, mem_litInSprite, State.spriteLit, ← drawScale,
    Bool.and_eq_true, decide_eq_true_iff]
  simp only [hrow]
  constructor
  · rintro ⟨hoy, hox, hw, -, bits, ⟨hrows, rfl⟩, hbit⟩
    exact ⟨⟨hoy, by omega, hox, hw⟩, (getMsbD_eq_testBit _ (by omega)).symm.trans hbit⟩
  · rintro ⟨⟨hoy, hrows, hox, hw⟩, hbit⟩
    exact ⟨hoy, hox, hw, hcols, _, ⟨by omega, rfl⟩, (getMsbD_eq_testBit _ (by omega)).trans hbit⟩

section sprite
variable (s : State) (x y : VReg) (n : Nat)

theorem originY_lt : s.originY y < logicalRows s.hiRes :=
  Nat.mod_lt _ (by cases s.hiRes <;> decide)

theorem originY_add_drawnRows_le : s.originY y + s.drawnRows y n ≤ logicalRows s.hiRes := by
  have := originY_lt s y
  rw [State.drawnRows]; omega

/-- The origin row is always drawn. -/
theorem drawnRows_ne_zero (hn : n ≠ 0) : s.drawnRows y n ≠ 0 := by
  have := originY_lt s y
  rw [State.drawnRows]; omega

/-- The unclipped rows of a sprite, drawn at the origin of R910. -/
theorem xorsPixels_rows {w : Nat} (row : Nat → BitVec w) :
    XorsPixels (drawSprite s.hiRes (s.originX x) (s.originY y) ((List.range (s.drawnRows y n)).map row))
      (s.spriteLit (s.originX x) (s.originY y) (s.drawnRows y n) w fun k => (row k).toNat) := by
  refine (xorsPixels_drawSprite _ _ _ _ ?_).congr fun r c _ hc => spriteCovers_eq_spriteLit s _ _ _ row r hc
  rw [List.length_map, List.length_range]
  exact originY_add_drawnRows_le s y n

end sprite

theorem readWord_toNat (s : State) (a : Nat) :
    (s.readWord a).toNat = 256 * (s.readByte a).toNat + (s.readByte (a + 1)).toNat := by
  have := (s.readByte (a + 1)).isLt
  rw [State.readWord, BitVec.toNat_append, ← Nat.shiftLeft_add_eq_or_of_lt this, Nat.shiftLeft_eq, Nat.mul_comm]

/-! ### DRW (R910 to R912) -/

/-- Settles O51: the model's origin, rows and sprite are the statement's own, and `xorsPixels_rows` says what drawing them
does. -/
theorem drawXorsSpritePixels : Obligations.DrawXorsSpritePixels := by
  intro x y n s hn W H ox oy rows lit
  have hwf : (Instr.drw x y n).wellFormed = true := bne_iff_ne.2 fun e => hn (congrArg Fin.val e)
  refine ⟨decodeWord_of_eq_encode (wordXYN_eq 0xD (by decide) x y n) hwf, fun ha => ?_, fun ha => ?_⟩
  · exact ⟨_, exec_of_check_none rfl (readCheck_eq_none_of_le ha), drew_finishDraw (xorsPixels_rows s x y n.val _) s⟩
  · exact exec_violated rfl (readCheck_eq_some (drawnRows_ne_zero s y n.val hn) ha)

theorem exec_drwZero_hiRes {s : State} (h : s.hiRes = true) (x y : VReg) :
    exec (.drwZero x y) s = checked (readCheck s.i.toNat (2 * s.drawnRows y 16)) s (s.finishDraw
      (drawSprite s.hiRes (s.originX x) (s.originY y) (s.spriteWords (s.drawnRows y 16)) s.screen)) := by
  rw [exec, execDrwZero, if_pos h]

theorem exec_drwZero_lowRes {s : State} (h : s.hiRes = false) (x y : VReg) :
    exec (.drwZero x y) s = .next (s.finishDraw (s.screen, false)) := by
  rw [exec, execDrwZero, if_neg (Bool.eq_false_iff.1 h)]

/-- Settles O52: as O51 with rows of two bytes, `readWord_toNat`; in low-res the screen is written back as it was. -/
theorem drawZeroDrawsWideSprite : Obligations.DrawZeroDrawsWideSprite := by
  intro x y s ox oy rows lit
  have hrows (h : s.hiRes = true) : s.drawnRows y 16 = rows := by
    simp only [State.drawnRows, State.originY, logicalRows, h, if_true]; rfl
  have hlit (h : s.hiRes = true) : s.spriteLit (s.originX x) (s.originY y) (s.drawnRows y 16) 16
      (fun k => (s.readWord (s.i.toNat + 2 * k)).toNat) = lit := by
    simp only [State.drawnRows, State.originX, State.originY, logicalRows, logicalCols, h, if_true, readWord_toNat]; rfl
  refine ⟨decodeWord_of_eq_encode (wordXYN_eq 0xD (by decide) x y 0) rfl, fun h ha => ?_, fun h ha => ?_, fun h => ?_⟩
  · rw [← hrows h] at ha
    rw [← hlit h]
    exact ⟨_, exec_of_check_none (exec_drwZero_hiRes h x y) (readCheck_eq_none_of_le ha),
      drew_finishDraw (xorsPixels_rows s x y 16 _) s⟩
  · rw [← hrows h] at ha
    have hne := drawnRows_ne_zero s y 16 (by decide)
    exact exec_violated (exec_drwZero_hiRes h x y) (readCheck_eq_some (by omega) ha)
  · exact ⟨_, exec_drwZero_lowRes h x y, rfl, finishDraw_getElem_F s _, rfl, sameButDrawing_finishDraw s _⟩

/-! ### Drawing twice (R913) -/

/-- A draw is a drawing that XORs some pixels; a second draw from the state a first one leaves is checked alike and draws
the same sprite where V[x] and V[y] are as before. -/
theorem exec_draw {i : Instr} {x y n : Fin 16} (hi : i = .drw x y n ∨ i = .drwZero x y) (s : State) :
    ∃ violation draw lit, XorsPixels draw lit ∧ exec i s = checked violation s (s.finishDraw (draw s.screen)) ∧
      ∀ d, (s.finishDraw d).v[x] = s.v[x] → (s.finishDraw d).v[y] = s.v[y] →
        exec i (s.finishDraw d) = checked violation (s.finishDraw d) ((s.finishDraw d).finishDraw (draw d.1)) := by
  have horigin (d : Screen × Bool) (hx : (s.finishDraw d).v[x] = s.v[x]) (hy : (s.finishDraw d).v[y] = s.v[y]) :
      (s.finishDraw d).originX x = s.originX x ∧ (s.finishDraw d).originY y = s.originY y := by
    rw [State.originX, State.readV, hx, State.originY, State.readV, hy]
    exact ⟨rfl, rfl⟩
  rcases hi with rfl | rfl
  · refine ⟨_, _, _, xorsPixels_rows s x y n.val _, rfl, fun d hx hy => ?_⟩
    obtain ⟨hox, hoy⟩ := horigin d hx hy
    rw [exec, execDrw, State.drawnRows, hox, hoy]
    rfl
  · cases hres : s.hiRes with
    | true =>
      refine ⟨_, _, _, xorsPixels_rows s x y 16 _, exec_drwZero_hiRes hres x y, fun d hx hy => ?_⟩
      obtain ⟨hox, hoy⟩ := horigin d hx hy
      rw [exec_drwZero_hiRes (s := s.finishDraw d) hres, State.drawnRows, hox, hoy]
      rfl
    | false =>
      exact ⟨none, _, _, xorsPixels_nothing, exec_drwZero_lowRes hres x y, fun d _ _ =>
        exec_drwZero_lowRes (s := s.finishDraw d) hres x y⟩

/-- Settles O53: the second draw is the same drawing (`exec_draw`) on the screen the first one left. -/
theorem drawingTwiceErases : Obligations.DrawingTwiceErases := by
  intro i x y n s t hi hexec hf hx hy
  obtain ⟨violation, draw, lit, hxor, hfirst, hsecond⟩ := exec_draw hi s
  rcases checked_cases (hfirst.symm.trans hexec) with ⟨kind, -, ht⟩ | ⟨rfl, ht⟩ <;> cases ht
  · cases hf
  · refine ⟨_, hsecond _ hx hy, hf, hxor.twice s.screen, fun hblank => ⟨?_, fun hne => ?_⟩⟩
    · rw [finishDraw_getElem_F, hxor.blank_flag hblank]; rfl
    · rw [finishDraw_getElem_F, hxor.blank_twice_flag hblank hne]; rfl

end Sys2Proof.Machine
end

section
/-! Proofs of the family 46_keys_timers.md (O25, O26, O54 to O56): the key skips and the timer transfers, one equation for
each row of the key wait's transition table, and the key wait as the host's `cycle` calls run it. -/

namespace Sys2Proof.Machine

open Sys2Proof

/-! ### The timer transfers (R1003 to R1005) -/

/-- Settles O55: each transfer is one write of one field. -/
theorem timerTransfers : Obligations.TimerTransfers := fun x s =>
  ⟨⟨decodeWord_groupF x 0x07 rfl rfl, decodeWord_groupF x 0x15 rfl rfl, decodeWord_groupF x 0x18 rfl rfl⟩,
    exec_writeV rfl,
    ⟨s.setDt s.v[x], rfl, rfl, setDt_rest s _, sameBytes_of_memory rfl rfl⟩,
    ⟨s.setSt s.v[x], rfl, rfl, setSt_rest s _, sameBytes_of_memory rfl rfl⟩⟩

/-! ### Key numbers (R1000) -/

section withKey
variable {s : State} {i : Instr} {b : Byte} {e : Bool → State}

/-- A key number of 0 to 15 has the effect of its latch. -/
theorem withKey_of_eq {k : Fin 16} (h : b.toNat = k.val) : withKey b s e = .next (e s.keypad[k]) := by
  have hdown : s.keyDown b = some s.keypad[k] := (keyDown_of_lt (by omega)).trans (by simp [h])
  rw [withKey, hdown]

theorem withKey_of_gt (h : 15 < b.toNat) : withKey b s e = .next (raise .keyIndex s) := by
  rw [withKey, keyDown_of_ge h]

theorem exec_keyIndex (h : exec i s = withKey b s e) (hb : 15 < b.toNat) :
    ∃ t, exec i s = .next t ∧ s.violated t .keyIndex :=
  ⟨raise .keyIndex s, h.trans (withKey_of_gt hb), violated_raise s .keyIndex⟩

end withKey

/-- The words `Exkk` of R304, written as numbers. -/
theorem decodeWord_groupE (x : VReg) (kk : Byte) {i : Instr} (hi : packXKk 0xE x kk = encode i)
    (hwf : i.wellFormed = true) : decodeWord (wordXKk 0xE x kk) = .ok i :=
  decodeWord_of_eq_encode ((wordXKk_eq 0xE (by decide) x kk).trans hi) hwf

theorem skipIf_not_pc (s : State) (c : Bool) : (s.skipIf (!c)).pc = if c then s.pc else s.pc + 2 := by cases c <;> rfl

/-- Settles O54: both meanings are `State.skipIf` of the latch of key V[x], or of its complement. -/
theorem keySkipsFollowLatch : Obligations.KeySkipsFollowLatch := by
  refine fun x s => ⟨decodeWord_groupE x 0x9E rfl rfl, decodeWord_groupE x 0xA1 rfl rfl, fun k hk => ⟨?_, ?_⟩,
    fun hx => ⟨exec_keyIndex rfl hx, exec_keyIndex rfl hx⟩⟩
  · exact ⟨_, withKey_of_eq hk, skipIf_pc s _, sameButPc_skipIf s _⟩
  · exact ⟨_, withKey_of_eq hk, skipIf_not_pc s _, sameButPc_skipIf s _⟩

/-! ### The rows of the transition table (R1007) -/

theorem setWait_of_eq {s : State} {w : KeyWait} (h : s.waitForKey = w) : s.setWait w = s := by subst h; rfl

theorem anyKey_eq_false {s : State} (h : ¬∃ k : Fin 16, s.keypad[k] = true) : s.anyKey = false :=
  Bool.eq_false_iff.2 fun e => h ((anyKey_iff s).1 e)

/-- What `held(x)` of R1008 is, where it is not a violation. -/
def State.heldIs (s : State) (x : VReg) (held : Bool) : Prop :=
  (s.params.releaseCheck = .anyKey ∧ s.anyKey = held) ∨
    (s.params.releaseCheck = .recordedKey ∧ ∃ k : Fin 16, s.v[x].toNat = k.val ∧ s.keypad[k] = held)

section rows
variable {s : State} {x : VReg}

theorem exec_ldVxKey_idle_none (hw : s.waitForKey = .idle) (hk : ¬∃ k : Fin 16, s.keypad[k] = true) :
    exec (.ldVxKey x) s = .next (s.rewind.setWait .idle) := by
  rw [exec, execLdVxKey_idle hw, anyKey_eq_false hk, if_neg Bool.false_ne_true,
    setWait_of_eq (s := s.rewind) hw]

theorem exec_ldVxKey_idle_down (hw : s.waitForKey = .idle) (hk : ∃ k : Fin 16, s.keypad[k] = true) :
    exec (.ldVxKey x) s = .next (s.rewind.setWait .armedAwaitingPress) := by
  rw [exec, execLdVxKey_idle hw, if_pos ((anyKey_iff s).2 hk)]

theorem exec_ldVxKey_armed_none (hw : s.waitForKey = .armedAwaitingPress) (hk : ¬∃ k : Fin 16, s.keypad[k] = true) :
    exec (.ldVxKey x) s = .next (s.rewind.setWait .armedAwaitingPress) := by
  rw [exec, execLdVxKey_armed_none hw (firstKey_of_none s hk), setWait_of_eq (s := s.rewind) hw]

theorem exec_ldVxKey_armed_least (hw : s.waitForKey = .armedAwaitingPress) {k : Fin 16} (hk : s.keypad[k] = true)
    (hl : ∀ j : Fin 16, j < k → s.keypad[j] = false) :
    exec (.ldVxKey x) s = .next ((s.rewind.writeV x (BitVec.ofNat 8 k.val)).setWait .awaitingRelease) :=
  execLdVxKey_armed_some hw (firstKey_of_least s k hk hl)

/-- Both release checks, once it is known what `held(x)` is. -/
theorem exec_ldVxKey_awaiting (hw : s.waitForKey = .awaitingRelease) {held : Bool} (h : s.heldIs x held) :
    exec (.ldVxKey x) s = .next (releaseStep s held) := by
  rcases h with ⟨hr, rfl⟩ | ⟨hr, k, hx, rfl⟩
  · exact execLdVxKey_awaiting_anyKey hw hr
  · exact (execLdVxKey_awaiting_recordedKey hw hr).trans (withKey_of_eq hx)

theorem exec_ldVxKey_awaiting_held (hw : s.waitForKey = .awaitingRelease) (h : s.heldIs x true) :
    exec (.ldVxKey x) s = .next (s.rewind.setWait .awaitingRelease) := by
  rw [exec_ldVxKey_awaiting hw h, setWait_of_eq (s := s.rewind) hw]; rfl

theorem exec_ldVxKey_awaiting_released (hw : s.waitForKey = .awaitingRelease) (h : s.heldIs x false) :
    exec (.ldVxKey x) s = .next (s.setWait .idle) :=
  exec_ldVxKey_awaiting hw h

theorem heldIs_false (hh : ¬s.heldIs x true) (hr : ¬(s.params.releaseCheck = .recordedKey ∧ 15 < s.v[x].toNat)) :
    s.heldIs x false := by
  cases hc : s.params.releaseCheck with
  | anyKey => exact .inl ⟨hc, Bool.eq_false_iff.2 fun hk => hh (.inl ⟨hc, hk⟩)⟩
  | recordedKey =>
    have hx : s.v[x].toNat < 16 := not_le.1 fun hx => hr ⟨hc, hx⟩
    exact .inr ⟨hc, ⟨_, hx⟩, rfl, Bool.eq_false_iff.2 fun hk => hh (.inr ⟨hc, ⟨_, hx⟩, rfl, hk⟩)⟩

theorem exists_down_of_heldIs (h : s.heldIs x true) : ∃ k : Fin 16, s.keypad[k] = true := by
  rcases h with ⟨-, hk⟩ | ⟨-, k, -, hk⟩
  · exact (anyKey_iff s).1 hk
  · exact ⟨k, hk⟩

end rows

/-- At most PC, the wait and V[x] have changed. -/
def State.sameButKeyWait (s t : State) (x : VReg) : Prop :=
  (∀ z : VReg, z ≠ x → t.v[z] = s.v[z]) ∧
    { t with pc := s.pc, waitForKey := s.waitForKey, v := s.v } = s ∧ s.sameBytes t

/-- A row that leaves V[x]. -/
theorem exec_moveWait {i : Instr} {s : State} {pc : Word} {w : KeyWait} (x : VReg)
    (h : exec i s = .next ((s.jumpTo pc).setWait w)) :
    ∃ t, exec i s = .next t ∧ t.pc = pc ∧ t.waitForKey = w ∧ t.v[x] = s.v[x] ∧ s.sameButKeyWait t x :=
  ⟨_, h, rfl, rfl, rfl, fun _ _ => rfl, rfl, fun _ => rfl⟩

/-- Settles O56, row by row. -/
theorem keyWaitTransitions : Obligations.KeyWaitTransitions := by
  intro x s down held outOfRange goes
  have hheld : s.heldIs x true ↔ held := or_congr_left (and_congr_right' (anyKey_iff s))
  refine ⟨decodeWord_groupF x 0x0A rfl rfl, fun hw hk => ?_, fun hw hk => ?_, fun hw hk => ?_, fun hw k hk hl => ?_,
    fun hw hh => ?_, fun hw hh hr => ?_, fun hw hr => ?_⟩
  · exact exec_moveWait x (exec_ldVxKey_idle_none hw hk)
  · exact exec_moveWait x (exec_ldVxKey_idle_down hw hk)
  · exact exec_moveWait x (exec_ldVxKey_armed_none hw hk)
  · exact ⟨_, exec_ldVxKey_armed_least hw hk hl, rfl, rfl, writeV_getElem_self s.rewind x _,
      fun z hz => writeV_getElem_ne s.rewind x z _ hz, rfl, fun _ => rfl⟩
  · exact exec_moveWait x (exec_ldVxKey_awaiting_held hw (hheld.2 hh))
  · exact exec_moveWait x (exec_ldVxKey_awaiting_released hw (heldIs_false (hheld.not.2 hh) hr))
  · obtain ⟨hc, hx⟩ := hr
    exact exec_keyIndex (execLdVxKey_awaiting_recordedKey hw hc) hx

/-! ### The key wait as it is run (R1009; 40_cycle.md R402) -/

/-- What is left of a fetch once PC is rewound. -/
def State.rewound (s : State) (op : Word) : State := { s with opcode := op, raised := none }

theorem rewind_afterFetch (s : State) (op : Word) : (s.afterFetch op).rewind = s.rewound op := by
  have hpc : s.pc + 2 - 2 = s.pc := add_sub_cancel_right s.pc 2
  show { s with pc := s.pc + 2 - 2, opcode := op, raised := none } = s.rewound op
  rw [hpc]; rfl

section steps
variable {s : State} {x : VReg}

theorem instructionStep_keyWait (hp : s.pc.toNat ≤ 4094) (hf : s.fetchedWord = wordXKk 0xF x 0x0A) :
    instructionStep s = exec (.ldVxKey x) (s.afterFetch (wordXKk 0xF x 0x0A)) := by
  have hd : decodeOp s.fetchedWord = some (.ldVxKey x) := decodeWord_ok (hf ▸ decodeWord_groupF x 0x0A rfl rfl)
  rw [instructionStep_decoded hp hd, hf]

theorem instructionStep_stalls (hp : s.pc.toNat ≤ 4094) (hf : s.fetchedWord = wordXKk 0xF x 0x0A)
    (hw : s.waitForKey = .idle) (hk : ¬∃ k : Fin 16, s.keypad[k] = true) :
    instructionStep s = .next (s.rewound (wordXKk 0xF x 0x0A)) := by
  rw [instructionStep_keyWait hp hf, exec_ldVxKey_idle_none (s := s.afterFetch _) hw hk, rewind_afterFetch,
    setWait_of_eq (s := s.rewound _) hw]

end steps

/-- Settles O25: with no key down the state after one step steps to itself. -/
theorem keyWaitStallsWithoutKeys : Obligations.KeyWaitStallsWithoutKeys := by
  intro x s n _ hp hf hw hk hn
  have hnone : ¬∃ k : Fin 16, s.keypad[k] = true := by simpa using hk
  exact cycleLoop_of_step_to_fixed (instructionStep_stalls hp hf hw hnone)
    (instructionStep_stalls (s := s.rewound _) hp hf hw hnone) rfl hn

/-! ### Press, record, release (95_test_vectors.md X9) -/

theorem issueAll_cons {s t : State} {c : Command} {r : Response} (h : issue c s = some (r, t)) (rest : List Command) :
    issueAll (c :: rest) s = issueAll rest t := by
  rw [issueAll, h]

/-- The latch of one key set or cleared (48_host_interface.md R1210, R1211). -/
def State.setKey (s : State) (k : Fin 16) (down : Bool) : State := { s with keypad := s.keypad.set k down }

theorem cmdSetKey_fin (s : State) (k : Fin 16) (down : Bool) : cmdSetKey k.val down s = (.done, s.setKey k down) :=
  dif_pos k.isLt

theorem issue_pressKey {s : State} (h : s.running) (k : Fin 16) :
    issue (.pressKey k.val) s = some (.done, s.setKey k true) :=
  (issue_running h _).trans (congrArg some (cmdSetKey_fin s k true))

theorem issue_releaseKey {s : State} (h : s.running) (k : Fin 16) :
    issue (.releaseKey k.val) s = some (.done, s.setKey k false) :=
  (issue_running h _).trans (congrArg some (cmdSetKey_fin s k false))

section setKey
variable (s : State) (k : Fin 16) (down : Bool)

@[simp] theorem setKey_v : (s.setKey k down).v = s.v := rfl
@[simp] theorem setKey_pc : (s.setKey k down).pc = s.pc := rfl
@[simp] theorem setKey_keypad : (s.setKey k down).keypad = s.keypad.set k down := rfl

theorem setKey_keypad_getElem (j : Fin 16) :
    (s.setKey k down).keypad[j] = if k = j then down else s.keypad[j] := by
  simp [Vector.getElem_set, Fin.ext_iff]

end setKey

theorem keypad_release_press {s : State} {k : Fin 16} (h : s.keypad[k] = false) :
    (s.keypad.set k true).set k false = s.keypad := by
  rw [Vector.set_set, ← h]; exact Vector.set_getElem_self k.isLt

/-- A running core with IPF = 1 that fetches Fx0A. -/
def State.AtKeyWait (s : State) (x : VReg) : Prop :=
  s.running ∧ s.pc.toNat ≤ 4094 ∧ s.fetchedWord = wordXKk 0xF x 0x0A ∧ s.ipf = 1

/-- The state whose steps a cycle call runs (40_cycle.md R401). -/
def State.enterCycle (s : State) : State := { resume s with screenUpdated := false }

/-- What is left of such a core's cycle call once PC is rewound. -/
def State.polled (s : State) (x : VReg) : State := s.enterCycle.rewound (wordXKk 0xF x 0x0A)

section polled
variable (s : State) (x : VReg)

@[simp] theorem polled_v : (s.polled x).v = s.v := rfl
@[simp] theorem polled_pc : (s.polled x).pc = s.pc := rfl
@[simp] theorem polled_keypad : (s.polled x).keypad = s.keypad := rfl

end polled

/-! Neither the keys, nor a poll, nor the writes of the wait move the core from its word. -/

section atKeyWait
variable {s : State} {x : VReg}

theorem State.AtKeyWait.setKey (h : s.AtKeyWait x) (k : Fin 16) (down : Bool) : (s.setKey k down).AtKeyWait x := h

theorem State.AtKeyWait.polled (h : s.AtKeyWait x) : (s.polled x).AtKeyWait x := h

theorem State.AtKeyWait.writeV (h : s.AtKeyWait x) (b : Byte) : (s.writeV x b).AtKeyWait x := h

theorem State.AtKeyWait.setWait (h : s.AtKeyWait x) (w : KeyWait) : (s.setWait w).AtKeyWait x := h

end atKeyWait

section calls
variable {s t : State} {x : VReg}

/-- With IPF = 1 a cycle call is one step. -/
theorem issue_cycle_keyWait (h : s.AtKeyWait x)
    (he : exec (.ldVxKey x) (s.enterCycle.afterFetch (wordXKk 0xF x 0x0A)) = .next t) (hr : t.raised = none) :
    issue .cycle s = some (.ok, t) := by
  obtain ⟨hrun, hp, hf, hipf⟩ := h
  have hs : instructionStep s.enterCycle = .next t := (instructionStep_keyWait (s := s.enterCycle) hp hf).trans he
  have hcycle : cmdCycle s = cycleLoop s.ipf s.enterCycle := rfl
  rw [issue_running hrun, perform, hcycle, hipf, cycleLoop_succ_of_no_fault hs hr, cycleLoop_zero]

theorem issue_cycle_detects (h : s.AtKeyWait x) (hw : s.waitForKey = .idle) (hk : ∃ k : Fin 16, s.keypad[k] = true) :
    issue .cycle s = some (.ok, (s.polled x).setWait .armedAwaitingPress) := by
  rw [State.polled, ← rewind_afterFetch]
  exact issue_cycle_keyWait h (exec_ldVxKey_idle_down (s := s.enterCycle.afterFetch _) hw hk) rfl

theorem issue_cycle_records (h : s.AtKeyWait x) (hw : s.waitForKey = .armedAwaitingPress) {k : Fin 16}
    (hk : s.keypad[k] = true) (hl : ∀ j : Fin 16, j < k → s.keypad[j] = false) :
    issue .cycle s = some (.ok, ((s.polled x).writeV x (BitVec.ofNat 8 k.val)).setWait .awaitingRelease) := by
  rw [State.polled, ← rewind_afterFetch]
  exact issue_cycle_keyWait h (exec_ldVxKey_armed_least (s := s.enterCycle.afterFetch _) hw hk hl) rfl

theorem issue_cycle_completes (h : s.AtKeyWait x) (hw : s.waitForKey = .awaitingRelease) (hh : s.heldIs x false) :
    ∃ t, issue .cycle s = some (.ok, t) ∧ t.v = s.v ∧ t.pc = s.pc + 2 ∧ t.waitForKey = .idle ∧ t.keypad = s.keypad ∧
      t.running := by
  have hcycle := issue_cycle_keyWait h (exec_ldVxKey_awaiting_released (s := s.enterCycle.afterFetch _) hw hh) rfl
  obtain ⟨⟨hinit, hlive⟩, -⟩ := h
  refine ⟨_, hcycle, ?_, ?_, ?_, ?_, ?_, ?_⟩ <;> simp [State.enterCycle, hinit, hlive]

end calls

/-- The core once it has recorded key `k`, still down. -/
def State.recorded (s : State) (x : VReg) (k : Fin 16) : State :=
  let armed := ((s.setKey k true).polled x).setWait .armedAwaitingPress
  ((armed.polled x).writeV x (BitVec.ofNat 8 k.val)).setWait .awaitingRelease

section recorded
variable {s : State} {x : VReg} {k : Fin 16}

/-- From Idle with no key down, a press and two cycle calls record the key. -/
theorem issueAll_press_record (h : s.AtKeyWait x) (hw : s.waitForKey = .idle)
    (hk : ∀ j : Fin 16, s.keypad[j] = false) (rest : List Command) :
    issueAll (.pressKey k.val :: .cycle :: .cycle :: rest) s = issueAll rest (s.recorded x k) := by
  have hdown : (s.setKey k true).keypad[k] = true := by rw [setKey_keypad_getElem, if_pos rfl]
  have hleast (j : Fin 16) (hj : j < k) : (s.setKey k true).keypad[j] = false := by
    rw [setKey_keypad_getElem, if_neg hj.ne', hk j]
  have hpressed : (s.setKey k true).AtKeyWait x := h.setKey k true
  rw [issueAll_cons (issue_pressKey h.1 k), issueAll_cons (issue_cycle_detects hpressed hw ⟨k, hdown⟩),
    issueAll_cons (issue_cycle_records (hpressed.polled.setWait _) rfl hdown hleast), State.recorded]

theorem atKeyWait_recorded (h : s.AtKeyWait x) : (s.recorded x k).AtKeyWait x :=
  ((((h.setKey k true).polled.setWait _).polled).writeV _).setWait _

theorem recorded_pc : (s.recorded x k).pc = s.pc := by simp [State.recorded]

theorem recorded_keypad : (s.recorded x k).keypad = s.keypad.set k true := by simp [State.recorded]

theorem recorded_getElem_self_toNat : (s.recorded x k).v[x].toNat = k.val := by
  have hlt : k.val < 256 := by omega
  simp [State.recorded, Nat.mod_eq_of_lt hlt]

theorem recorded_getElem_ne {z : VReg} (h : z ≠ x) : (s.recorded x k).v[z] = s.v[z] := by
  simp only [State.recorded, setWait_v, Fin.getElem_fin, writeV_getElem_ne _ _ _ _ h, polled_v, setKey_v]

end recorded

/-- Settles O26: the release leaves the keypad as it was, so neither release check holds the wait. -/
theorem keyWaitCompletesAfterRelease : Obligations.KeyWaitCompletesAfterRelease := by
  intro x k s hrun hp hf hw hk hipf
  have hat : s.AtKeyWait x := ⟨hrun, hp, hf, hipf⟩
  have hrecorded : (s.recorded x k).AtKeyWait x := atKeyWait_recorded hat
  have hkeypad : ((s.recorded x k).setKey k false).keypad = s.keypad := by
    rw [setKey_keypad, recorded_keypad, keypad_release_press (hk k)]
  have hfree : ((s.recorded x k).setKey k false).heldIs x false := by
    refine heldIs_false (fun h => ?_) (fun h => ?_)
    · obtain ⟨j, hj⟩ := exists_down_of_heldIs h
      rw [hkeypad, hk j] at hj; cases hj
    · have hx : 15 < (s.recorded x k).v[x].toNat := h.2
      rw [recorded_getElem_self_toNat] at hx
      omega
  obtain ⟨t, hcycle, hv, hpc, hwait, hkeys, hlive⟩ := issue_cycle_completes (hrecorded.setKey k false) rfl hfree
  rw [setKey_v] at hv
  refine ⟨t, ?_, ?_, fun z hz => ?_, ?_, hwait, hkeys.trans hkeypad, hlive⟩
  · rw [issueAll_press_record hat hw hk, issueAll_cons (issue_releaseKey hrecorded.1 k), issueAll_cons hcycle,
      issueAll]
  · rw [hv, recorded_getElem_self_toNat]
  · rw [hv, recorded_getElem_ne hz]
  · rw [hpc, setKey_pc, recorded_pc]

end Sys2Proof.Machine
end

section
/-! Proofs of the family 47_random.md (O57, O58): the generator step as a number, the bits of its byte, what a draw leaves,
and runs of draws from two cores with the same generator. -/

namespace Sys2Proof.Machine

open Sys2Proof

/-! ### One draw (R1100, R1102) -/

theorem stepRng_rng_toNat (s : State) :
    s.stepRng.rng.toNat = (s.rng.toNat * s.params.rngMultiplier.toNat + 1) % 2 ^ 64 := by
  rw [stepRng_rng, BitVec.toNat_add, BitVec.toNat_mul]
  exact Nat.mod_add_mod _ _ _

theorem rngByte_getLsbD (s : State) {k : Nat} (hk : k < 8) :
    s.rngByte.getLsbD k = (s.rng.toNat / 2 ^ 56).testBit k := by
  rw [State.rngByte, BitVec.getLsbD_extractLsb', decide_eq_true hk, Bool.true_and, Nat.testBit_div_two_pow, Nat.add_comm,
    BitVec.testBit_toNat]

/-- The core after RND Vx, kk. -/
def State.drawn (s : State) (x : VReg) (kk : Byte) : State := s.stepRng.writeV x (s.stepRng.rngByte &&& kk)

theorem exec_rnd (x : VReg) (kk : Byte) (s : State) : exec (.rnd x kk) s = .next (s.drawn x kk) := rfl

section drawn
variable (s : State) (x : VReg) (kk : Byte)

@[simp] theorem drawn_rng : (s.drawn x kk).rng = s.stepRng.rng := rfl
@[simp] theorem drawn_faulted : (s.drawn x kk).faulted = s.faulted := rfl

/-- Register x holds the masked byte, also where x is 15. -/
theorem drawn_getElem_self : (s.drawn x kk).v[x] = s.stepRng.rngByte &&& kk := writeV_getElem_self s.stepRng x _

theorem drawn_getElem_ne {z : VReg} (h : z ≠ x) : (s.drawn x kk).v[z] = s.v[z] := writeV_getElem_ne s.stepRng x z _ h

/-- Nothing else changes. -/
theorem drawn_rest : { s.drawn x kk with v := s.v, rng := s.rng } = s := rfl

theorem drawn_getElem_self_getLsbD {k : Nat} (hk : k < 8) :
    (s.drawn x kk).v[x].getLsbD k = (((s.drawn x kk).rng.toNat / 2 ^ 56).testBit k && kk.getLsbD k) := by
  rw [drawn_getElem_self, BitVec.getLsbD_and, rngByte_getLsbD _ hk, drawn_rng]

end drawn

/-- Settles O57: the byte written is the top byte of the generator's new state, masked. -/
theorem randomByteIsMaskedTopByte : Obligations.RandomByteIsMaskedTopByte := fun x kk s =>
  ⟨decodeWord_of_eq_encode (wordXKk_eq 0xC (by decide) x kk) rfl, s.drawn x kk, exec_rnd x kk s, stepRng_rng_toNat s,
    fun _ hk => drawn_getElem_self_getLsbD s x kk hk, fun _ hz => drawn_getElem_ne s x kk hz, drawn_rest s x kk,
    sameBytes_of_memory rfl rfl⟩

/-! ### Runs of draws (R1103) -/

theorem execAll_rnd {s : State} (hf : s.faulted = false) (x : VReg) (kk : Byte) (rest : List Instr) :
    execAll (.rnd x kk :: rest) s = execAll rest (s.drawn x kk) := by
  simp [execAll, exec_rnd, hf]

/-- Equal generator states and multipliers: the relation of R1103 between two runs. -/
def State.sameGenerator (s t : State) : Prop := s.rng = t.rng ∧ s.params.rngMultiplier = t.params.rngMultiplier

section sameGenerator
variable {s t : State}

theorem State.sameGenerator.stepRng_rng (h : s.sameGenerator t) : s.stepRng.rng = t.stepRng.rng := by
  obtain ⟨hrng, hmul⟩ := h
  rw [Machine.stepRng_rng, Machine.stepRng_rng, hrng, hmul]

theorem State.sameGenerator.drawn (h : s.sameGenerator t) (x : VReg) (kk : Byte) :
    (s.drawn x kk).sameGenerator (t.drawn x kk) :=
  ⟨h.stepRng_rng, h.2⟩

theorem State.sameGenerator.drawn_getElem_self (h : s.sameGenerator t) (x : VReg) (kk : Byte) :
    (s.drawn x kk).v[x] = (t.drawn x kk).v[x] := by
  rw [Machine.drawn_getElem_self, Machine.drawn_getElem_self, State.rngByte, State.rngByte, h.stepRng_rng]

end sameGenerator

/-- Settles O58, by induction on the draws before the last: each one keeps the two generators equal. -/
theorem randomSequenceIsDetermined : Obligations.RandomSequenceIsDetermined := by
  intro draws x kk s₁ s₂ hrng hmul hf₁ hf₂
  have hgen : s₁.sameGenerator s₂ := ⟨hrng, hmul⟩
  clear hrng hmul
  induction draws generalizing s₁ s₂ with
  | nil =>
    exact ⟨s₁.drawn x kk, s₂.drawn x kk, execAll_rnd hf₁ x kk [], execAll_rnd hf₂ x kk [], hgen.stepRng_rng,
      hgen.drawn_getElem_self x kk⟩
  | cons d draws ih =>
    rw [List.map_cons, List.cons_append, execAll_rnd hf₁, execAll_rnd hf₂]
    exact ih (s₁.drawn d.1 d.2) (s₂.drawn d.1 d.2) hf₁ hf₂ (hgen.drawn d.1 d.2)

end Sys2Proof.Machine
end

section
/-! Proofs of the families 48_host_interface.md, 60_exceptions.md and 70_reset_and_hazards.md (O6, O7, O9 to O15, O21, O27):
which commands answer, what each one that is not `cycle` writes, the unknown word as a step and as a cycle call takes it, and
the run through zeroed memory. -/

namespace Sys2Proof.Machine

open Sys2Proof

/-! ### Acceptance (48_host_interface.md R1202; 60_exceptions.md R1305; 10_state.md R126) -/

section acceptance
variable {s : State} {c : Command}

theorem State.running.accepts (h : s.running) (c : Command) : s.accepts c = true := by
  rw [State.accepts, h.1, h.2]; rfl

theorem issue_of_accepts (h : s.accepts c = true) : issue c s = some (perform c s) := if_pos h

/-- What a command performs is what it answers where it is accepted. -/
theorem issue_of_perform (ha : s.accepts c = true) {o : Response × State} (h : perform c s = o) : issue c s = some o :=
  (issue_of_accepts ha).trans (congrArg some h)

theorem issue_of_not_accepts (h : s.accepts c = false) : issue c s = none := if_neg (Bool.eq_false_iff.1 h)

theorem accepts_of_faulted (h : s.faulted = true) (c : Command) : s.accepts c = false := by
  rw [State.accepts, h]; rfl

/-- Before the first `initialize` a core accepts that command alone. -/
theorem accepts_of_isPowerOn (h : s.isPowerOn) (c : Command) : s.accepts c = c.isInit := by
  obtain ⟨hinit, hlive⟩ := h
  rw [State.accepts, hinit, hlive]; rfl

theorem accepts_init (h : s.faulted = false) (hz : Int) (p : Platform) (seed : Seed) :
    s.accepts (.init hz p seed) = true := by
  rw [State.accepts, h, Command.isInit, Bool.or_true]; rfl

theorem isInit_eq_false (h : ∀ hz p seed, c ≠ .init hz p seed) : c.isInit = false := by
  cases c with
  | init hz p seed => exact absurd rfl (h hz p seed)
  | _ => rfl

theorem step_of_faulted (h : s.faulted = true) : step s = .fault .halted := if_pos h

theorem step_of_isPowerOn (h : s.isPowerOn) : step s = .refused .notInitialized := by
  obtain ⟨hinit, hlive⟩ := h
  rw [step, hlive, hinit]; rfl

end acceptance

/-- Settles O15: both halves of `State.accepts`, and the two stops of `step`. -/
theorem acceptanceOfCommands : Obligations.AcceptanceOfCommands := by
  refine ⟨fun c s hf => ⟨issue_of_not_accepts (accepts_of_faulted hf c), step_of_faulted hf⟩,
    fun s hs => ⟨step_of_isPowerOn hs, fun hz p seed => ?_, fun c hc => ?_⟩, fun c s hrun => ?_⟩
  · rw [issue_of_accepts (accepts_init hs.2 hz p seed)]; rfl
  · exact issue_of_not_accepts ((accepts_of_isPowerOn hs c).trans (isInit_eq_false hc))
  · rw [issue_running hrun]; rfl

/-- A command that violates its contract (60_exceptions.md R1304). -/
theorem issue_violated {s : State} {c : Command} {kind : Violation} (ha : s.accepts c = true)
    (h : perform c s = violate kind s) : ∃ t, issue c s = some (.fault kind, t) ∧ s.violated t kind :=
  ⟨raise kind s, issue_of_perform ha h, violated_raise s kind⟩

/-! ### The frequency (48_host_interface.md R1207) -/

section frequency
variable {hz : Int}

theorem ipfOf_of_neg (p : Params) (h : hz < 0) : ipfOf p hz = none := if_pos h

theorem ipfOf_of_nonneg (p : Params) (h : 0 ≤ hz) :
    ipfOf p hz = some (if p.ipfRounding = .nearest then (hz.toNat + 30) / 60 else hz.toNat / 60) := by
  rw [ipfOf, if_neg (not_lt.2 h)]
  cases p.ipfRounding <;> rfl

theorem cmdSetFrequency_of_neg (s : State) (h : hz < 0) : cmdSetFrequency hz s = violate .badFrequency s := by
  rw [cmdSetFrequency, ipfOf_of_neg s.params h]

theorem cmdSetFrequency_of_some {s : State} {n : Nat} (h : ipfOf s.params hz = some n) :
    cmdSetFrequency hz s = (.done, { s with ipf := n }) := by
  rw [cmdSetFrequency, h]

theorem cmdInit_of_neg (s : State) (h : hz < 0) (p : Platform) (seed : Seed) :
    cmdInit hz p seed s = violate .badFrequency s := by
  rw [cmdInit, ipfOf_of_neg s.params h]

end frequency

/-- Settles O11: `ipfOf` has both roundings, and no value for a negative frequency. -/
theorem setFrequencyRounds : Obligations.SetFrequencyRounds := by
  intro hz s hrun
  constructor <;> intro hsign
  · refine ⟨_, issue_of_perform (hrun.accepts _) (cmdSetFrequency_of_some (ipfOf_of_nonneg s.params hsign)),
      fun hr => if_pos hr, fun hr => if_neg ?_, rfl⟩
    rw [hr]; exact IpfRounding.noConfusion
  · exact issue_violated (hrun.accepts _) (cmdSetFrequency_of_neg s hsign)

/-! ### The platform and the keys (48_host_interface.md R1208, R1210, R1211) -/

theorem cmdSetKey_of_gt (s : State) {k : Nat} (h : 15 < k) (down : Bool) : cmdSetKey k down s = violate .keyIndex s :=
  dif_neg (Nat.not_lt_of_ge h)

/-- A press and a release write the latch of their key alone. -/
theorem issue_setKey {s : State} {c : Command} {k : Fin 16} {down : Bool}
    (h : issue c s = some (.done, s.setKey k down)) :
    ∃ t, issue c s = some (.done, t) ∧ t.keypad[k] = down ∧ (∀ j : Fin 16, j ≠ k → t.keypad[j] = s.keypad[j]) ∧
      { t with keypad := s.keypad } = s :=
  ⟨_, h, (setKey_keypad_getElem s k down k).trans (if_pos rfl),
    fun j hj => (setKey_keypad_getElem s k down j).trans (if_neg hj.symm), rfl⟩

/-- Settles O12: both key commands are `cmdSetKey`. -/
theorem platformAndKeyCommands : Obligations.PlatformAndKeyCommands := by
  refine fun s hrun => ⟨fun p => ⟨{ s with platform := p }, issue_running hrun _, rfl, rfl⟩,
    fun k => issue_setKey (issue_pressKey hrun k), fun k => issue_setKey (issue_releaseKey hrun k), fun k hk => ⟨?_, ?_⟩⟩
  · exact issue_violated (hrun.accepts _) (cmdSetKey_of_gt s hk true)
  · exact issue_violated (hrun.accepts _) (cmdSetKey_of_gt s hk false)

/-! ### The queries (48_host_interface.md R1203 to R1206, R1209) -/

theorem toNat_pos_iff_ne_zero (b : Byte) : b.toNat > 0 ↔ b ≠ 0 :=
  Nat.pos_iff_ne_zero.trans (BitVec.toNat_ne_iff_ne (x := b) (y := 0))

section getPixel
variable (s : State) {row col : Nat}

theorem cmdGetPixel_of_inside (hr : row ≤ 63) (hc : col ≤ 127) :
    cmdGetPixel row col s = (.bool (s.screen.pix row col), s) :=
  if_neg (not_or.2 ⟨not_lt.2 hr, not_lt.2 hc⟩)

theorem cmdGetPixel_of_outside (h : 63 < row ∨ 127 < col) : cmdGetPixel row col s = violate .pixelIndex s := if_pos h

end getPixel

/-- Settles O13: the bit that `getPixel` reads is `Screen.byte_getLsbD`. -/
theorem queriesReadAndChangeNothing : Obligations.QueriesReadAndChangeNothing := by
  intro s hrun
  refine ⟨?_, issue_running hrun _, issue_running hrun _, issue_running hrun _, fun row col hr hc => ?_,
    fun row col hout => ?_⟩
  · rw [issue_running hrun, perform, decide_eq_decide.2 (toNat_pos_iff_ne_zero s.st)]
  · rw [issue_running hrun, perform, cmdGetPixel_of_inside s hr hc, Screen.byte_getLsbD s.screen row (Nat.lt_succ_of_le hc)]
  · exact issue_violated (hrun.accepts _) (cmdGetPixel_of_outside s hout)

/-! ### The timers (60_exceptions.md R1320) -/

/-- One tick of a timer is the subtraction of natural numbers. -/
theorem tick_toNat (b : Byte) : (if b = 0 then 0 else b - 1).toNat = b.toNat - 1 := by
  by_cases h : b = 0
  · rw [if_pos h, h]; rfl
  · rw [if_neg h]
    bv_omega

/-- Settles O14: each timer by `tick_toNat`. -/
theorem tickTimersCountsDown : Obligations.TickTimersCountsDown :=
  fun s hrun => ⟨_, issue_running hrun .tickTimers, tick_toNat s.dt, tick_toNat s.st, rfl⟩

/-! ### reset, initialize and softReset (70_reset_and_hazards.md R1400 to R1404) -/

section unlisted
variable (p : Params)

theorem unlisted_fontLo (k : Fin 80) : Memory.unlisted p (0x50 + k.val) = p.fontLo[k] := by
  have := k.isLt
  simp [Memory.unlisted, fontLoBase, fontHiBase, show 0x50 + k.val < 0xA0 by omega]

theorem unlisted_fontHi (k : Fin 160) : Memory.unlisted p (0xA0 + k.val) = p.fontHi[k] := by
  have := k.isLt
  simp [Memory.unlisted, fontLoBase, fontHiBase, fontEnd, show ¬0xA0 + k.val < 0x50 by omega,
    show 0xA0 + k.val < 0x140 by omega]

theorem unlisted_outside_fonts {a : Nat} (h : a < 0x50 ∨ 0x140 ≤ a) : Memory.unlisted p a = 0 := by
  rcases h with h | h
  · exact if_pos h
  · simp [Memory.unlisted, fontLoBase, fontHiBase, fontEnd, show ¬a < 0x50 by omega, show ¬a < 0xA0 by omega,
      show ¬a < 0x140 by omega]

end unlisted

/-- After `reset` no byte is listed. -/
theorem readByte_resetCore (s : State) (a : Nat) : (resetCore s).readByte a = Memory.unlisted s.params a := rfl

/-- Settles O6: the arrays are constant vectors, the screen is the clear one, and memory is what it reads as unlisted. -/
theorem resetZeroesAndInstallsFonts : Obligations.ResetZeroesAndInstallsFonts := fun s =>
  ⟨fun x => Vector.getElem_replicate x.isLt, rfl, rfl, fun k => Vector.getElem_replicate k.isLt, rfl,
    fun k => Vector.getElem_replicate k.isLt, rfl, rfl, fun k => Vector.getElem_replicate k.isLt,
    fun k _ => Screen.byte_clear k, rfl, rfl, rfl, rfl, rfl, rfl, rfl, rfl, rfl, rfl,
    fun k => (readByte_resetCore s _).trans (unlisted_fontLo s.params k),
    fun k => (readByte_resetCore s _).trans (unlisted_fontHi s.params k),
    fun a ha => (readByte_resetCore s a).trans (unlisted_outside_fonts s.params (ha.imp_right And.left))⟩

theorem afterInit_rest {s : State} (hf : s.faulted = false) (n : Nat) (p : Platform) (seed : Seed) :
    { State.afterInit s.params n p seed with ipf := 0, platform := .chip8, rng := 0, initialized := s.initialized } =
      resetCore s := by
  rw [resetCore, hf]; rfl

/-- Settles O7: the core becomes `State.afterInit`, or the frequency has no IPF. -/
theorem initializeResetsAndConfigures : Obligations.InitializeResetsAndConfigures := by
  intro f p seed s hf
  constructor <;> intro hsign
  · exact ⟨_, issue_init hf (ipfOf_of_nonneg s.params hsign) p seed, rfl, rfl, rfl, rfl, afterInit_rest hf _ p seed⟩
  · exact issue_violated (accepts_init hf f p seed) (cmdInit_of_neg s hsign p seed)

/-- Settles O9: `cmdSoftReset` differs from `resetCore` in memory, the mark and the configuration. -/
theorem softResetKeepsMemory : Obligations.SoftResetKeepsMemory := by
  refine fun s hrun => ⟨_, issue_running hrun .softReset, rfl, sameBytes_of_memory rfl rfl, rfl, rfl, fun hkeep => ?_,
    fun hkeep => ?_, rfl⟩
  · exact ⟨if_pos hkeep, if_pos hkeep, if_pos hkeep⟩
  · have hnot := Bool.eq_false_iff.1 hkeep
    exact ⟨if_neg hnot, if_neg hnot, if_neg hnot⟩

/-! ### loadProgram (70_reset_and_hazards.md R1405) -/

section loadProgram
variable (s : State) {bytes : List Byte}

theorem cmdLoadProgram_of_le (h : bytes.length ≤ 3584) : cmdLoadProgram bytes s = (.done, s.writeBytes 0x200 bytes) :=
  if_neg (not_lt.2 h)

theorem cmdLoadProgram_of_gt (h : 3584 < bytes.length) : cmdLoadProgram bytes s = violate .programTooLarge s := if_pos h

end loadProgram

/-- Settles O10: a program that fits is one `State.writeBytes`. -/
theorem loadProgramCopiesBytes : Obligations.LoadProgramCopiesBytes := by
  intro bytes s hrun
  constructor <;> intro hlen
  · exact ⟨_, issue_of_perform (hrun.accepts _) (cmdLoadProgram_of_le s hlen),
      readByte_writeBytes_inside s 0x200 bytes, sameBytesOutside_writeBytes s 0x200 bytes, writeBytes_rest s 0x200 bytes⟩
  · exact issue_violated (hrun.accepts _) (cmdLoadProgram_of_gt s hlen)

/-! ### Unknown words (60_exceptions.md R1301, R1302, R1309) -/

section unknownWord
variable {s : State}

theorem instructionStep_unknown (hp : s.pc.toNat ≤ 4094) (hd : decodeOp s.fetchedWord = none) :
    instructionStep s = .next (raiseUnknown s.fetchedWord s.pc (s.afterFetch s.fetchedWord)) := by
  rcases instructionStep_cases s with ⟨hgt, -⟩ | ⟨-, -, e⟩ | ⟨-, i, hi, -⟩
  · omega
  · exact e
  · rw [hd] at hi; cases hi

/-- No step reads the record of an earlier fault: the fetch forgets it, and a fault writes its own. -/
theorem step_resume (s : State) : step (resume s) = step s := rfl

theorem issue_cycle (h : s.running) : issue .cycle s = some (cycleLoop s.ipf s.enterCycle) := issue_running h .cycle

/-- A cycle call of at least one step stops at a fault of its first. -/
theorem issue_cycle_of_fault {t : State} {record : FaultRecord} (h : s.running) (hipf : 1 ≤ s.ipf)
    (hs : instructionStep s.enterCycle = .next t) (hr : t.raised = some record) :
    issue .cycle s = some (record.response, t) := by
  obtain ⟨n, hn⟩ := Nat.exists_eq_add_of_le' hipf
  rw [issue_cycle h, hn, cycleLoop_succ_of_fault hs hr]

end unknownWord

/-- Settles O21: after the step only the record is left to forget, and a cycle call enters its first step from the same PC
and memory. -/
theorem unknownOpcodeIsReportedAndResumable : Obligations.UnknownOpcodeIsReportedAndResumable := by
  rintro s op hrun hp rfl hd
  obtain ⟨-, hd⟩ := decodeWord_error hd
  refine ⟨_, (step_running hrun).trans (instructionStep_unknown hp hd), rfl, rfl, rfl, hrun, afterFetch_rest s s.fetchedWord,
    sameBytes_of_memory rfl rfl, (step_resume _).symm, fun hipf => ?_⟩
  exact issue_cycle_of_fault hrun hipf (instructionStep_unknown (s := s.enterCycle) hp hd) rfl

/-! ### Running off the program (70_reset_and_hazards.md R1413) -/

/-- The core with another PC and another last word. -/
def State.movedTo (s : State) (pc op : Word) : State := { s with pc := pc, opcode := op }

/-- A running core without a fault record, with nothing but zeroes from PC to the end of memory. -/
def State.ZeroedAhead (s : State) : Prop :=
  s.running ∧ s.raised = none ∧ ∀ a, s.pc.toNat ≤ a → a < 4096 → s.readByte a = 0

section zeroedAhead
variable {s : State}

theorem resume_of_no_record (hr : s.raised = none) : resume s = s := by rw [resume, ← hr]

theorem afterFetch_of_no_record (hr : s.raised = none) (op : Word) : s.afterFetch op = s.movedTo (s.pc + 2) op := by
  rw [State.afterFetch, resume_of_no_record hr]
  rfl

theorem pc_add_two_toNat (hp : s.pc.toNat ≤ 4094) : (s.pc + 2).toNat = s.pc.toNat + 2 := by
  bv_omega

theorem fetchedWord_of_zeroedAhead (h : s.ZeroedAhead) (hp : s.pc.toNat ≤ 4094) : s.fetchedWord = 0 := by
  obtain ⟨-, -, hzero⟩ := h
  rw [fetchedWord_eq, hzero _ le_rfl (by omega), hzero _ (by omega) (by omega)]
  rfl

/-- The word 0x0000 is SYS, which does nothing (41_group0_system.md R508). -/
theorem step_of_zeroedAhead (h : s.ZeroedAhead) (hp : s.pc.toNat ≤ 4094) :
    step s = .next (s.movedTo (s.pc + 2) 0) := by
  have hw := fetchedWord_of_zeroedAhead h hp
  have hd : decodeOp s.fetchedWord = some (.sys 0) := by rw [hw]; rfl
  obtain ⟨hrun, hr, -⟩ := h
  rw [step_running hrun, instructionStep_decoded hp hd, hw, afterFetch_of_no_record hr]
  rfl

theorem State.ZeroedAhead.movedTo (h : s.ZeroedAhead) (hp : s.pc.toNat ≤ 4094) (op : Word) :
    (s.movedTo (s.pc + 2) op).ZeroedAhead := by
  obtain ⟨hrun, hr, hzero⟩ := h
  refine ⟨hrun, hr, fun a ha hlt => hzero a ?_ hlt⟩
  have hmoved : (s.pc + 2).toNat ≤ a := ha
  rw [pc_add_two_toNat hp] at hmoved
  omega

/-- Where PC is an even number of bytes before the end of memory, the steps are safe and PC ends there. -/
theorem runSteps_of_zeroedAhead {n : Nat} (h : s.ZeroedAhead) (hn : s.pc.toNat + 2 * n = 4096) :
    safeRun n s ∧ ∃ op, runSteps n s = .next (s.movedTo 0x1000 op) := by
  induction n generalizing s with
  | zero =>
    have hpc : s.pc = 0x1000 := BitVec.eq_of_toNat_eq hn
    exact ⟨trivial, s.opcode, by rw [← hpc]; rfl⟩
  | succ n ih =>
    have hp : s.pc.toNat ≤ 4094 := by omega
    have hmoved := h.movedTo hp 0
    have hleft : (s.pc + 2).toNat + 2 * n = 4096 := by rw [pc_add_two_toNat hp]; omega
    obtain ⟨hsafe, op, hrun⟩ := ih hmoved hleft
    obtain ⟨-, hraised, -⟩ := hmoved
    refine ⟨⟨_, step_of_zeroedAhead h hp, hraised, hsafe⟩, op, ?_⟩
    rw [runSteps, step_of_zeroedAhead h hp]
    exact hrun

end zeroedAhead

/-- Settles O27: `runSteps_of_zeroedAhead`, and then there is no word at PC = 0x1000 to fetch. -/
theorem zeroedMemoryRunsOffTheEnd : Obligations.ZeroedMemoryRunsOffTheEnd := by
  intro s n hrun hr hn hzero _
  have hahead : s.ZeroedAhead := ⟨hrun, hr, hzero⟩
  obtain ⟨hsafe, op, hsteps⟩ := runSteps_of_zeroedAhead hahead hn
  obtain ⟨u, hu, hviolated⟩ := fetchOutOfRangeFaults (s.movedTo 0x1000 op) hrun (by decide : 4094 < 0x1000)
  exact ⟨hsafe, _, u, hsteps, rfl, rfl, hu, hviolated⟩

end Sys2Proof.Machine
end
